-- ==== Sys2Proof/Word.lean ====
section
/-! DEFINITION. The byte, the atomic unit of every rule of the spec (00_scope.md R8, D24), and byte sequences. -/

namespace Sys2Proof

/-- A byte: an unsigned integer in 0..255 (R8). Its bits are numbered from 0 at the least significant (R9). -/
abbrev Byte := BitVec 8

/-- A byte sequence: a finite list of bytes, index 0 first on the wire (R8). -/
abbrev Bytes := List Byte

end Sys2Proof
end

