-- ==== Sys2Proof/Syntax.lean ====
section
/-! DEFINITION. The instructions: one constructor per row of spec/opcode_table.json (R120), with the operands the row names;
and the request, the form in which the host's operations reach the block (log 1). -/

namespace Sys2Proof

/-- `Message` (R19): the operand of `ENCODE`, the result of `DECODE`. One field for the dual-role byte (R21, U10). -/
structure Message where
  signature : Byte
  instruction : Byte
  address : Byte
  payload : Bytes
  deriving DecidableEq, Repr

/-- The table's "format" column (R120): the nine operations, the response-code map, and the three wire patterns. -/
inductive Format where
  | op
  | ack
  | frame
  | header
  | record
  deriving DecidableEq, Repr

/-- One request of the host: which of the table's formats its bytes are read in, and the bytes (log 1, log 2). -/
structure Request where
  format : Format
  bytes : Bytes
  deriving DecidableEq, Repr

/-- The rows of spec/opcode_table.json. -/
inductive Instr where
  -- format OP (R103)
  | sfReset
  | sfFeed (x : Byte)
  | sfIdle
  | checksum (s : Bytes)
  | encode (m : Message)
  | decode (b : Bytes) (chk : Bool)
  | ackclass (code : Byte)
  | mdecode (p : Bytes)
  | tempsplit (v : BitVec 32)
  -- format ACK (R104, R170): a row of more than one code carries the code
  | ackOk
  | ackDeverr01
  | ackDeverr02
  | ackDeverr03
  | ackDeverr04
  | ackDeverr05
  | ackDeverr06
  | ackUnsolicited0A
  | ackUnsolicited0B
  | ackUnsolicited0C
  | ackUnsolicited0D
  | ackUnsolicited0E
  | ackUnsolicited0F
  | ackInvalid07
  | ackInvalid08 (code : Byte)
  | ackInvalid10 (code : Byte)
  | ackInvalid20 (code : Byte)
  | ackInvalid40 (code : Byte)
  | ackInvalid80 (code : Byte)
  -- formats FRAME (R92), HEADER (R94), RECORD (R100): the pattern's letters, in wire order
  | wireFrameEmpty (pfx fmt addr sig code chksum term : Byte)
  | wireHeader (pfx fmt lenHi lenLo : Byte)
  | wireRecord (channel power state t1 t0 t3 t2 : Byte)
  deriving DecidableEq, Repr

end Sys2Proof
end

