-- ==== Sys2Proof/Machine/Results.lean ====
section
/-! DEFINITION. The values the operations return: error kinds, response-code classes, Points, framer events, and what one step hands
to the host. Their numeric codes and derived bits are in Machine/Flags.lean. -/

namespace Sys2Proof.Machine

/-- The ten error kinds with their `info` (R240 to R251): a closed type. They are results, not faults (R265). -/
inductive Err where
  | payloadTooLarge (n : Nat)
  | frameTooShort (t : Nat)
  | badPrefix (b : Byte)
  | badFormat (b : Byte)
  | lengthMismatch (declared actual : Nat)
  | badTerminator (b : Byte)
  | checksumMismatch (computed stored : Byte)
  | deviceError (code : Byte)
  | invalidResponseCode (code : Byte)
  | truncatedRecord (n : Nat)
  deriving DecidableEq, Repr

/-- `Result = ok(value) | err(kind, info)` (R12). -/
inductive Result (α : Type) where
  | ok (value : α)
  | err (e : Err)
  deriving DecidableEq, Repr

/-- The six device errors by the names of R170 (R171). -/
inductive DeviceErrorKind where
  | unspecified
  | unrecognizedInstruction
  | malformedData
  | notPermitted
  | deviceFault
  | noData
  deriving DecidableEq, Repr

/-- The four classes of a response code (R170). -/
inductive AckClass where
  | ok
  | deviceError (kind : DeviceErrorKind)
  | unsolicited
  | invalid
  deriving DecidableEq, Repr

/-- `Point` (R20): the temperature is carried as the signed 32-bit `temp_raw`, read with `BitVec.toInt` (R223). -/
structure Point where
  channel : Byte
  powerFlag : Byte
  stateFlag : Byte
  tempRaw : BitVec 32
  deriving DecidableEq, Repr

/-- The result `(neg, whole, frac)` of `TEMPSPLIT` (R225). -/
structure TempParts where
  neg : Bool
  whole : Nat
  frac : Nat
  deriving DecidableEq, Repr

/-- The framer's events (R37). -/
inductive Event where
  | skip (x : Byte)
  | badHeader (h : Bytes)
  | missingTerminator
  | discarded (e : Err) (raw : Bytes)
  | frame (raw : Bytes) (m : Message)
  deriving DecidableEq, Repr

/-- What one step hands to the host: the results column of R103, or nothing where no operation ran (log 1, log 4). -/
inductive Output where
  | nothing
  | events (l : List Event)
  | checksum (c : Byte)
  | encoded (r : Result Bytes)
  | decoded (r : Result Message)
  | ackClass (c : AckClass)
  | points (r : Result (List Point))
  | split (p : TempParts)
  deriving DecidableEq, Repr

end Sys2Proof.Machine
end

