-- ==== Sys2Proof/Machine/Operands.lean ====
section
/-! DEFINITION. The operand forms: bytes and slices of a sequence, the 16-bit length field, byte sums, the permuted 32-bit
temperature and the measurement record (R8, R10, R62, R64, R96, R101, R221, R222). -/

namespace Sys2Proof.Machine

/-- `s[i]` (R8); every rule uses it with `i < |s|` only. -/
def byteAt (s : Bytes) (i : Nat) : Byte := s.getD i 0

/-- `s[i..j)` (R8). -/
def sliceOf (s : Bytes) (i j : Nat) : Bytes := (s.take j).drop i

/-- `hi8(v) = v[15:8]` (R10). -/
def hi8 (v : Nat) : Byte := BitVec.ofNat 8 (v / 256)

/-- `lo8(v) = v[7:0]` (R10). -/
def lo8 (v : Nat) : Byte := BitVec.ofNat 8 v

/-- `u16be(h, l) = 256*h + l` (R10, R62). -/
def u16be (h l : Byte) : Nat := 256 * h.toNat + l.toNat

/-- `sum(s)`, an unbounded natural number (R10). -/
def byteSum : Bytes → Nat
  | [] => 0
  | b :: s => b.toNat + byteSum s

/-- `sext_32(u)` for `u` in 0..2^32-1: the word whose two's-complement reading, `BitVec.toInt`, is the result (R10). -/
def sext32 (u : Nat) : BitVec 32 := BitVec.ofNat 32 u

/-- `TEMP32` (R222): the wire order is `[t1, t0, t3, t2]` (C4, log 14). -/
def temp32 (w0 w1 w2 w3 : Byte) : BitVec 32 :=
  let t1 := w0
  let t0 := w1
  let t3 := w2
  let t2 := w3
  sext32 (t0.toNat + 256 * t1.toNat + 65536 * t2.toNat + 16777216 * t3.toNat)

/-- `RECDEC(r)` (R221), `r` of 7 bytes. -/
def recDec (r : Bytes) : Point where
  channel := byteAt r 0
  powerFlag := byteAt r 1
  stateFlag := byteAt r 2
  tempRaw := temp32 (byteAt r 3) (byteAt r 4) (byteAt r 5) (byteAt r 6)

/-- Byte `k` of a temperature, 0 the least significant. -/
def tempByte (v : BitVec 32) (k : Nat) : Byte := BitVec.ofNat 8 (v.toNat / 256 ^ k)

/-- `RECENC(P)` (R228): the device's side of a record, named for statements and tests. -/
def recEnc (p : Point) : Bytes :=
  [p.channel, p.powerFlag, p.stateFlag, tempByte p.tempRaw 1, tempByte p.tempRaw 0, tempByte p.tempRaw 3,
    tempByte p.tempRaw 2]

end Sys2Proof.Machine
end

