-- ==== Sys2Proof/Config.lean ====
section
/-! DEFINITION. The configuration record `CFG` (00_scope.md R6, 10_state.md R36) and the fixed sizes (R7).
The spec leaves no value free: "Nothing in this block is non-deterministic" (R18), so there is no opaque constant here. -/

namespace Sys2Proof

/-- `CFG` (R6, R36): read-only for the whole life of the block; every value of every field is legal, and no rule requires
the constants to be distinct (R6, R294). It is held in the state as a value no operation writes (log 5). -/
structure Cfg where
  /-- `PREFIX` -/
  prefixByte : Byte
  /-- `FORMAT` -/
  formatByte : Byte
  /-- `TERM` -/
  termByte : Byte
  /-- `ADDR_BROADCAST`, read by nothing in the core (R36) -/
  addrBroadcast : Byte
  /-- `ADDR_DEFAULT`, only the default of `Message.address` (R19, R36) -/
  addrDefault : Byte
  /-- `SF_CHECK`, what the framer passes to `DECODE` as `chk` (D7) -/
  sfCheck : Bool
  deriving DecidableEq, Repr

/-- The defaults of R6's table (log 5). -/
def Cfg.default : Cfg where
  prefixByte := 0x2A
  formatByte := 0x61
  termByte := 0x0D
  addrBroadcast := 0xFF
  addrDefault := 0xFE
  sfCheck := true

/-- `HDR_LEN` (R7). -/
abbrev hdrLen : Nat := 4
/-- `OVERHEAD` (R7): `length - payload.length`. -/
abbrev overhead : Nat := 5
/-- `FIXED_LEN` (R7): bytes of a frame with empty payload. -/
abbrev fixedLen : Nat := 9
/-- `LEN_MAX` (R7). -/
abbrev lenMax : Nat := 65535
/-- `PAYLOAD_MAX` (R7). -/
abbrev payloadMax : Nat := 65530
/-- `FRAME_MAX` (R7). -/
abbrev frameMax : Nat := 65539
/-- `DECODE_MIN` (R7): below this many bytes `DECODE` reports `FrameTooShort`. -/
abbrev decodeMin : Nat := 7
/-- `REC_LEN` (R7). -/
abbrev recLen : Nat := 7
/-- `REC_MAX` (R7): most records in one payload. -/
abbrev recMax : Nat := 9361
/-- `TEMP_SCALE` (R7): the temperature integer counts hundredths. -/
abbrev tempScale : Nat := 100
/-- `BUF_CAP` (R7, R32). -/
abbrev bufCap : Nat := 65539

end Sys2Proof
end

