-- ==== Sys2Proof/WellFormed.lean ====
section
/-! DEFINITION. Which terms of `Instr` are instances of their row. Only the rows `ACK.INVALID_*` that cover a range of codes can
carry an operand outside their row: the code's bits under the row's mask must be the row's match (R120). Every operand of every other row is
legal: byte sequences of any length (R130, R132, R135, R220), all 256 values of every byte (R105, R182), every 32-bit
value (R225). -/

namespace Sys2Proof

/-- The instruction is an instance of its row of spec/opcode_table.json. -/
def wellFormed : Instr → Bool
  | .ackInvalid08 code => code &&& 0xFE == 0x08
  | .ackInvalid10 code => code &&& 0xF0 == 0x10
  | .ackInvalid20 code => code &&& 0xE0 == 0x20
  | .ackInvalid40 code => code &&& 0xC0 == 0x40
  | .ackInvalid80 code => code &&& 0x80 == 0x80
  | .sfReset => true
  | .sfFeed _ => true
  | .sfIdle => true
  | .checksum _ => true
  | .encode _ => true
  | .decode _ _ => true
  | .ackclass _ => true
  | .mdecode _ => true
  | .tempsplit _ => true
  | .ackOk => true
  | .ackDeverr01 => true
  | .ackDeverr02 => true
  | .ackDeverr03 => true
  | .ackDeverr04 => true
  | .ackDeverr05 => true
  | .ackDeverr06 => true
  | .ackUnsolicited0A => true
  | .ackUnsolicited0B => true
  | .ackUnsolicited0C => true
  | .ackUnsolicited0D => true
  | .ackUnsolicited0E => true
  | .ackUnsolicited0F => true
  | .ackInvalid07 => true
  | .wireFrameEmpty _ _ _ _ _ _ _ => true
  | .wireHeader _ _ _ _ => true
  | .wireRecord _ _ _ _ _ _ _ => true

end Sys2Proof
end

