-- ==== Sys2Proof/Decode.lean ====
section
/-! DEFINITION. Reading a request's bytes as an instruction, total on any bytes, and writing an instruction as a request.
The opcodes, match and mask values are the table's (R103, R120); how a request lays out an operation's operands is the
model's own (log 2), since the spec gives `opsel` 4 bits and names the operands without encoding them. -/

namespace Sys2Proof

/-- Why a request is no instruction. -/
inductive Reject where
  /-- an OP request without even an `opsel` byte -/
  | noOpsel
  /-- an `opsel` of 9..15, or a byte above 15: "the spec gives them no meaning" (R106 (f)) -/
  | unassignedOpsel (b : Byte)
  /-- operand bytes missing or left over, or a `chk` operand that is no bit (log 2) -/
  | operandBytes (b : Byte)
  /-- a code byte no ACK row matches (there is none: R120) -/
  | ackCode (b : Byte)
  /-- an ACK, FRAME, HEADER or RECORD request whose bytes do not have the row's number or fixed bits -/
  | wireBytes (f : Format)
  deriving DecidableEq, Repr

/-- What decoding answers. -/
inductive Decoded where
  | ok (i : Instr)
  | reject (r : Reject)
  deriving DecidableEq, Repr

/-- The `TEMPSPLIT` operand from its four request bytes, most significant first (log 2). -/
def word32 (a b c d : Byte) : BitVec 32 :=
  BitVec.ofNat 32 (((a.toNat * 256 + b.toNat) * 256 + c.toNat) * 256 + d.toNat)

/-- Byte `k` (0 the least significant) of a 32-bit operand. -/
def byteOf32 (v : BitVec 32) (k : Nat) : Byte := BitVec.ofNat 8 (v.toNat / 256 ^ k)

/-- The nine operations by `opsel` (R103); the operands follow in the table's order (log 2). -/
def decodeOp (opsel : Byte) (operands : Bytes) : Decoded :=
  match opsel.toNat, operands with
  | 0, [] => .ok .sfReset
  | 1, [x] => .ok (.sfFeed x)
  | 2, [] => .ok .sfIdle
  | 3, s => .ok (.checksum s)
  | 4, sig :: ins :: addr :: payload =>
    .ok (.encode { signature := sig, instruction := ins, address := addr, payload := payload })
  | 5, chk :: b =>
    if chk = 0 then .ok (.decode b false)
    else if chk = 1 then .ok (.decode b true)
    else .reject (.operandBytes opsel)
  | 6, [code] => .ok (.ackclass code)
  | 7, p => .ok (.mdecode p)
  | 8, [a, b, c, d] => .ok (.tempsplit (word32 a b c d))
  | k, _ => if k ≤ 8 then .reject (.operandBytes opsel) else .reject (.unassignedOpsel opsel)

/-- The 19 ACK rows by match and mask (R120, R170). -/
def decodeAck (code : Byte) : Decoded :=
  if code = 0x00 then .ok .ackOk
  else if code = 0x01 then .ok .ackDeverr01
  else if code = 0x02 then .ok .ackDeverr02
  else if code = 0x03 then .ok .ackDeverr03
  else if code = 0x04 then .ok .ackDeverr04
  else if code = 0x05 then .ok .ackDeverr05
  else if code = 0x06 then .ok .ackDeverr06
  else if code = 0x0A then .ok .ackUnsolicited0A
  else if code = 0x0B then .ok .ackUnsolicited0B
  else if code = 0x0C then .ok .ackUnsolicited0C
  else if code = 0x0D then .ok .ackUnsolicited0D
  else if code = 0x0E then .ok .ackUnsolicited0E
  else if code = 0x0F then .ok .ackUnsolicited0F
  else if code = 0x07 then .ok .ackInvalid07
  else if code &&& 0xFE = 0x08 then .ok (.ackInvalid08 code)
  else if code &&& 0xF0 = 0x10 then .ok (.ackInvalid10 code)
  else if code &&& 0xE0 = 0x20 then .ok (.ackInvalid20 code)
  else if code &&& 0xC0 = 0x40 then .ok (.ackInvalid40 code)
  else if code &&& 0x80 = 0x80 then .ok (.ackInvalid80 code)
  else .reject (.ackCode code)

/-- The empty-payload frame pattern (R92): nine bytes whose length bytes are 00 05. -/
def decodeFrameRow : Bytes → Decoded
  | [pfx, fmt, lenHi, lenLo, addr, sig, code, chksum, term] =>
    if lenHi = 0 ∧ lenLo = 5 then .ok (.wireFrameEmpty pfx fmt addr sig code chksum term)
    else .reject (.wireBytes .frame)
  | _ => .reject (.wireBytes .frame)

/-- The header pattern (R94). -/
def decodeHeaderRow : Bytes → Decoded
  | [pfx, fmt, lenHi, lenLo] => .ok (.wireHeader pfx fmt lenHi lenLo)
  | _ => .reject (.wireBytes .header)

/-- The record pattern (R100). -/
def decodeRecordRow : Bytes → Decoded
  | [channel, power, state, t1, t0, t3, t2] => .ok (.wireRecord channel power state t1 t0 t3 t2)
  | _ => .reject (.wireBytes .record)

/-- The instruction a request stands for. -/
def decode (r : Request) : Decoded :=
  match r.format, r.bytes with
  | .op, [] => .reject .noOpsel
  | .op, opsel :: operands => decodeOp opsel operands
  | .ack, [code] => decodeAck code
  | .ack, _ => .reject (.wireBytes .ack)
  | .frame, bs => decodeFrameRow bs
  | .header, bs => decodeHeaderRow bs
  | .record, bs => decodeRecordRow bs

/-- The request of an instruction (R103's `opsel`, R170's codes, R92, R94 and R100's patterns; operands: log 2). -/
def encode : Instr → Request
  | .sfReset => ⟨.op, [0x0]⟩
  | .sfFeed x => ⟨.op, [0x1, x]⟩
  | .sfIdle => ⟨.op, [0x2]⟩
  | .checksum s => ⟨.op, 0x3 :: s⟩
  | .encode m => ⟨.op, 0x4 :: m.signature :: m.instruction :: m.address :: m.payload⟩
  | .decode b chk => ⟨.op, 0x5 :: (if chk then 0x1 else 0x0) :: b⟩
  | .ackclass code => ⟨.op, [0x6, code]⟩
  | .mdecode p => ⟨.op, 0x7 :: p⟩
  | .tempsplit v => ⟨.op, [0x8, byteOf32 v 3, byteOf32 v 2, byteOf32 v 1, byteOf32 v 0]⟩
  | .ackOk => ⟨.ack, [0x00]⟩
  | .ackDeverr01 => ⟨.ack, [0x01]⟩
  | .ackDeverr02 => ⟨.ack, [0x02]⟩
  | .ackDeverr03 => ⟨.ack, [0x03]⟩
  | .ackDeverr04 => ⟨.ack, [0x04]⟩
  | .ackDeverr05 => ⟨.ack, [0x05]⟩
  | .ackDeverr06 => ⟨.ack, [0x06]⟩
  | .ackUnsolicited0A => ⟨.ack, [0x0A]⟩
  | .ackUnsolicited0B => ⟨.ack, [0x0B]⟩
  | .ackUnsolicited0C => ⟨.ack, [0x0C]⟩
  | .ackUnsolicited0D => ⟨.ack, [0x0D]⟩
  | .ackUnsolicited0E => ⟨.ack, [0x0E]⟩
  | .ackUnsolicited0F => ⟨.ack, [0x0F]⟩
  | .ackInvalid07 => ⟨.ack, [0x07]⟩
  | .ackInvalid08 code => ⟨.ack, [code]⟩
  | .ackInvalid10 code => ⟨.ack, [code]⟩
  | .ackInvalid20 code => ⟨.ack, [code]⟩
  | .ackInvalid40 code => ⟨.ack, [code]⟩
  | .ackInvalid80 code => ⟨.ack, [code]⟩
  | .wireFrameEmpty pfx fmt addr sig code chksum term =>
    ⟨.frame, [pfx, fmt, 0x00, 0x05, addr, sig, code, chksum, term]⟩
  | .wireHeader pfx fmt lenHi lenLo => ⟨.header, [pfx, fmt, lenHi, lenLo]⟩
  | .wireRecord channel power state t1 t0 t3 t2 => ⟨.record, [channel, power, state, t1, t0, t3, t2]⟩

/-- The low `k` bytes of `w`, bits 7..0 first. -/
def bytesOfWord : Nat → Nat → Bytes
  | _, 0 => []
  | w, k + 1 => BitVec.ofNat 8 w :: bytesOfWord (w / 256) k

/-- How many operand bytes an operation needs beside a byte sequence, which may be empty (log 2). -/
def fixedOperands (opsel : Byte) : Nat :=
  match opsel.toNat with
  | 1 => 1
  | 4 => 3
  | 5 => 1
  | 6 => 1
  | 8 => 4
  | _ => 0

/-- The OP request whose first bytes are `w`'s, its other operand bytes zero. -/
def opRequest (nbits w : Nat) : Request :=
  let bs := bytesOfWord w (max 1 (nbits / 8))
  ⟨.op, bs ++ List.replicate (fixedOperands (bs.headD 0) + 1 - bs.length) 0⟩

/-- The request of a table word: the row's width says its format, but for the words 0..8 of 8 bits, which the table gives
both to an operation and to a response code; they are read as the operation (log 3). -/
def tableRequest (nbits w : Nat) : Request :=
  if nbits = 72 then ⟨.frame, bytesOfWord w 9⟩
  else if nbits = 56 then ⟨.record, bytesOfWord w 7⟩
  else if nbits = 32 then ⟨.header, bytesOfWord w 4⟩
  else if nbits = 8 ∧ 8 < w then ⟨.ack, bytesOfWord w 1⟩
  else opRequest nbits w

/-- The instruction the decoder reads from a table word. -/
def decodeTableWord (nbits w : Nat) : Option Instr :=
  match decode (tableRequest nbits w) with
  | .ok i => some i
  | .reject _ => none

end Sys2Proof
end

