-- ==== Sys2Proof/Machine/State.lean ====
section
/-! DEFINITION. The state of the machine, the reasons a step can stop, and the state after reset. -/

namespace Sys2Proof.Machine

/-- The sequencing register's three values (R31); the encoding 3 is unrepresentable (R106 (f)). -/
inductive St where
  | seekingPrefix
  | readingHeader
  | readingBody
  deriving DecidableEq, Repr

/-- The accumulation buffer's cells: addresses strictly rising, one cell for each index that holds a byte. An index without
a cell has no value (log 9), so a byte of any value has its cell. -/
abbrev Memory := List Host.Cell

/-- Why a step stops where the spec gives the registers no meaning. None can be raised from the reset state. -/
inductive Fault where
  /-- Raised by an append at `n >= BUF_CAP` (SF.FEED, WIRE.FRAME_EMPTY, WIRE.HEADER): the index is outside `BUF` (R32). Safe (log 10). -/
  | bufOverflow
  /-- Raised by a read of `BUF[i]`, `i < n`, where no byte was stored (same instructions; R11, R33). Safe (log 9). -/
  | bufUnwritten
  /-- Raised by a body byte while `rem = 0` (same instructions): `rem` is decremented only when at least 1 (R34, R197). Safe (log 11). -/
  | remUnderflow
  deriving DecidableEq, Repr

/-- Why a step gives no meaning to what the host issued. -/
inductive Refusal where
  /-- Raised by a refused arm of `exec` for an instruction without a meaning; no arm does. Safe. -/
  | notModelled (mnemonic : String)
  /-- Raised by `step` for a request that is no instruction: an unassigned `opsel`, operands missing or left over (R106 (f), R265). Safe (log 2). -/
  | undecodable (r : Reject)
  deriving DecidableEq, Repr

/-- The state: the framer's four registers (R30), the configuration (R36, log 5), and two fields of the model's own, the
last step's results (log 4) and the host's operations not yet executed (log 1). -/
structure State where
  /-- `CFG` -/
  cfg : Cfg
  /-- `st` -/
  st : St
  /-- `BUF` -/
  buf : Memory
  /-- `n`, 17 bits -/
  n : BitVec 17
  /-- `rem`, 16 bits -/
  rem : BitVec 16
  /-- the results of the last step (model's own) -/
  out : Output
  /-- the host's requests, the next one first (model's own) -/
  pending : List Request
  deriving DecidableEq, Repr

/-- The state after reset of a block instantiated with `c` (R40, R281). -/
def State.resetWith (c : Cfg) : State where
  cfg := c
  st := .seekingPrefix
  buf := []
  n := 0
  rem := 0
  out := .nothing
  pending := []

/-- The state after reset, with the default configuration (R6, log 5). -/
def State.reset : State := State.resetWith Cfg.default

end Sys2Proof.Machine
end

