-- ==== Sys2Proof/Machine/Ops.lean ====
section
/-! DEFINITION. The named operations over the state: reading and writing `BUF`, the append, what an error does to the framer
(R256, the exception analogue; R257: there is no return operation, the state after it is the reset state), the results
of a step, and taking the host's next request. -/

namespace Sys2Proof.Machine

/-- `BUF[i]` (R11): the byte of the cell at `i`; an index without a cell has no value (log 9). -/
def Memory.read : Memory → Nat → Option Byte
  | [], _ => none
  | (a, b) :: m, i => if a = i then some b else Memory.read m i

/-- `BUF[i] <- v` (R11), keeping the cells in rising order. -/
def Memory.write : Memory → Nat → Byte → Memory
  | [], i, v => [(i, v)]
  | (a, b) :: m, i, v =>
    if i < a then (i, v) :: (a, b) :: m
    else if i = a then (i, v) :: m
    else (a, b) :: Memory.write m i v

/-- Every address of the cells is at least `lo` and they rise strictly. -/
def Memory.risingFrom : Nat → Memory → Bool
  | _, [] => true
  | lo, (a, _) :: m => decide (lo ≤ a) && Memory.risingFrom (a + 1) m

/-- The canonical form: addresses strictly rising, all inside `BUF` (R32). No entry can equal an unlisted index's content, for
such an index has none (log 9). -/
def Memory.wf (m : Memory) : Bool := Memory.risingFrom 0 m && m.all (fun c => decide (c.1 < bufCap))

/-- The bytes at `i, i+1, ..., i+k-1`, where every one of them has a value. -/
def Memory.readRange (m : Memory) : Nat → Nat → Option Bytes
  | _, 0 => some []
  | i, k + 1 =>
    match Memory.read m i with
    | none => none
    | some b =>
      match Memory.readRange m (i + 1) k with
      | none => none
      | some bs => some (b :: bs)

/-- `BUF[0..k)` (R11), used with `k <= n` only. -/
def State.bufPart (s : State) (k : Nat) : Except Fault Bytes :=
  match s.buf.readRange 0 k with
  | none => .error .bufUnwritten
  | some bs => .ok bs

/-- `append(x)` (R11): `BUF[n] <- x; n <- n + 1`. -/
def State.append (s : State) (x : Byte) : Except Fault State :=
  if s.n.toNat < bufCap then .ok { s with buf := s.buf.write s.n.toNat x, n := s.n + 1 }
  else .error .bufOverflow

/-- `n <- 0; rem <- 0; st <- SEEKING_PREFIX` (R41, R181, R184, R186, R256): what an error, a completed candidate and
`SF.RESET` do. Bytes at indices `>= n` are no state (R33), so no cell is kept (log 12). -/
def State.resync (s : State) : State := { s with st := .seekingPrefix, buf := [], n := 0, rem := 0 }

/-- Hand the step's results to the host (log 4). -/
def State.answer (s : State) (o : Output) : State := { s with out := o }

/-- The end of a framer operation: its new registers and its event list, or the fault met. -/
def finish : Except Fault (State × List Event) → Host.Outcome State Fault Refusal
  | .error f => .fault f
  | .ok (t, evs) => .next (t.answer (.events evs))

/-- The end of a pure operation: no register is written (R42, R255). -/
def answerPure (s : State) (o : Output) : Host.Outcome State Fault Refusal := .next (s.answer o)

/-- The next request of the host, and the state from which it is executed (log 1). -/
def State.fetch (s : State) : Option (Request × State) :=
  match s.pending with
  | [] => none
  | r :: rest => some (r, { s with pending := rest })

/-- The host's next request replaced by `r` (log 1). -/
def State.place (s : State) (r : Request) : State := { s with pending := r :: s.pending.tail }

end Sys2Proof.Machine
end

