-- ==== Sys2Proof/Machine/MeasurementDecoder.lean ====
section
/-! DEFINITION. The MeasurementDecoder unit: `MDECODE` (R220) and `TEMPSPLIT` (R225). -/

namespace Sys2Proof.Machine

/-- `MDECODE(p)` (R220): no Point at all where the length is not a multiple of 7. -/
def decodePayload (p : Bytes) : Result (List Point) :=
  if p.length % recLen ≠ 0 then .err (.truncatedRecord p.length)
  else .ok ((List.range (p.length / recLen)).map fun k => recDec (sliceOf p (recLen * k) (recLen * k + recLen)))

/-- `TEMPSPLIT(v)` (R225): sign and magnitude first, then floor division of the magnitude. -/
def tempSplit (v : BitVec 32) : TempParts where
  neg := decide (v.toInt < 0)
  whole := v.toInt.natAbs / tempScale
  frac := v.toInt.natAbs % tempScale

/-- The instruction `MDECODE` (R220). -/
def execMdecode (p : Bytes) (s : State) : Host.Outcome State Fault Refusal := answerPure s (.points (decodePayload p))

/-- The instruction `TEMPSPLIT` (R225). -/
def execTempsplit (v : BitVec 32) (s : State) : Host.Outcome State Fault Refusal := answerPure s (.split (tempSplit v))

end Sys2Proof.Machine
end

