-- ==== Sys2Proof/Machine/AckTaxonomy.lean ====
section
/-! DEFINITION. The AckTaxonomy unit: `ACKCLASS` (R170) and the rows of the response-code map (R104, R120; log 6). -/

namespace Sys2Proof.Machine

/-- The class of a response code (R170's table). -/
def classify (code : Byte) : AckClass :=
  match code.toNat with
  | 0 => .ok
  | 1 => .deviceError .unspecified
  | 2 => .deviceError .unrecognizedInstruction
  | 3 => .deviceError .malformedData
  | 4 => .deviceError .notPermitted
  | 5 => .deviceError .deviceFault
  | 6 => .deviceError .noData
  | k => if 10 ≤ k ∧ k ≤ 15 then .unsolicited else .invalid

/-- `ACKCLASS(code)` (R170). -/
def execAckclass (code : Byte) (s : State) : Host.Outcome State Fault Refusal :=
  answerPure s (.ackClass (classify code))

/-! The rows `ACK.*`: the class each names in the table (R120), written from the row and not from `classify`. -/

/-- `ACK.OK` (0x00). -/
def execAckOk (s : State) : Host.Outcome State Fault Refusal := answerPure s (.ackClass .ok)

/-- `ACK.DEVERR_01`. -/
def execAckDeverr01 (s : State) : Host.Outcome State Fault Refusal :=
  answerPure s (.ackClass (.deviceError .unspecified))

/-- `ACK.DEVERR_02`. -/
def execAckDeverr02 (s : State) : Host.Outcome State Fault Refusal :=
  answerPure s (.ackClass (.deviceError .unrecognizedInstruction))

/-- `ACK.DEVERR_03`. -/
def execAckDeverr03 (s : State) : Host.Outcome State Fault Refusal :=
  answerPure s (.ackClass (.deviceError .malformedData))

/-- `ACK.DEVERR_04`. -/
def execAckDeverr04 (s : State) : Host.Outcome State Fault Refusal :=
  answerPure s (.ackClass (.deviceError .notPermitted))

/-- `ACK.DEVERR_05`. -/
def execAckDeverr05 (s : State) : Host.Outcome State Fault Refusal :=
  answerPure s (.ackClass (.deviceError .deviceFault))

/-- `ACK.DEVERR_06`. -/
def execAckDeverr06 (s : State) : Host.Outcome State Fault Refusal :=
  answerPure s (.ackClass (.deviceError .noData))

/-- `ACK.UNSOLICITED_0A`. -/
def execAckUnsolicited0A (s : State) : Host.Outcome State Fault Refusal := answerPure s (.ackClass .unsolicited)

/-- `ACK.UNSOLICITED_0B`. -/
def execAckUnsolicited0B (s : State) : Host.Outcome State Fault Refusal := answerPure s (.ackClass .unsolicited)

/-- `ACK.UNSOLICITED_0C`. -/
def execAckUnsolicited0C (s : State) : Host.Outcome State Fault Refusal := answerPure s (.ackClass .unsolicited)

/-- `ACK.UNSOLICITED_0D`. -/
def execAckUnsolicited0D (s : State) : Host.Outcome State Fault Refusal := answerPure s (.ackClass .unsolicited)

/-- `ACK.UNSOLICITED_0E`. -/
def execAckUnsolicited0E (s : State) : Host.Outcome State Fault Refusal := answerPure s (.ackClass .unsolicited)

/-- `ACK.UNSOLICITED_0F`. -/
def execAckUnsolicited0F (s : State) : Host.Outcome State Fault Refusal := answerPure s (.ackClass .unsolicited)

/-- `ACK.INVALID_07`. -/
def execAckInvalid07 (s : State) : Host.Outcome State Fault Refusal := answerPure s (.ackClass .invalid)

/-- `ACK.INVALID_08` (0x08, 0x09). -/
def execAckInvalid08 (_code : Byte) (s : State) : Host.Outcome State Fault Refusal := answerPure s (.ackClass .invalid)

/-- `ACK.INVALID_10` (0x10 to 0x1F). -/
def execAckInvalid10 (_code : Byte) (s : State) : Host.Outcome State Fault Refusal := answerPure s (.ackClass .invalid)

/-- `ACK.INVALID_20` (0x20 to 0x3F). -/
def execAckInvalid20 (_code : Byte) (s : State) : Host.Outcome State Fault Refusal := answerPure s (.ackClass .invalid)

/-- `ACK.INVALID_40` (0x40 to 0x7F). -/
def execAckInvalid40 (_code : Byte) (s : State) : Host.Outcome State Fault Refusal := answerPure s (.ackClass .invalid)

/-- `ACK.INVALID_80` (0x80 to 0xFF). -/
def execAckInvalid80 (_code : Byte) (s : State) : Host.Outcome State Fault Refusal := answerPure s (.ackClass .invalid)

end Sys2Proof.Machine
end

