-- ==== Sys2Proof/Machine/FrameCodec.lean ====
section
/-! DEFINITION. The FrameCodec unit: `CHECKSUM` (R130), `ENCODE` (R132), `DECODE` (R136). -/

namespace Sys2Proof.Machine

/-- `CHECKSUM(s) = (255 - sum(s)) mod 256`, the subtraction over the integers (R130). -/
def checksumOf (s : Bytes) : Byte := BitVec.ofNat 8 ((255 - (byteSum s : Int)) % 256).toNat

/-- The seven bytes before the payload (R92, R132). -/
def frameHead (c : Cfg) (m : Message) : Bytes :=
  [c.prefixByte, c.formatByte, hi8 (overhead + m.payload.length), lo8 (overhead + m.payload.length), m.address,
    m.signature, m.instruction]

/-- `ENCODE(m)` (R132). -/
def encodeFrame (c : Cfg) (m : Message) : Result Bytes :=
  if m.payload.length + overhead > lenMax then .err (.payloadTooLarge m.payload.length)
  else .ok (frameHead c m ++ m.payload ++ [checksumOf (frameHead c m ++ m.payload), c.termByte])

/-- Step 7 of `DECODE` (R136, R143): the error a response code raises, if any. -/
def codeError (code : Byte) : Option Err :=
  match classify code with
  | .ok => none
  | .unsolicited => none
  | .deviceError _ => some (.deviceError code)
  | .invalid => some (.invalidResponseCode code)

/-- Steps 1 to 6 of `DECODE` (R136 to R142): the first structural error of `b`, if any. -/
def structuralError (c : Cfg) (b : Bytes) : Option Err :=
  let t := b.length
  if t < decodeMin then some (.frameTooShort t)
  else if byteAt b 0 ≠ c.prefixByte then some (.badPrefix (byteAt b 0))
  else if byteAt b 1 ≠ c.formatByte then some (.badFormat (byteAt b 1))
  else
    let l := u16be (byteAt b 2) (byteAt b 3)
    if l ≠ t - hdrLen ∨ l < overhead then some (.lengthMismatch l t)
    else if byteAt b (t - 1) ≠ c.termByte then some (.badTerminator (byteAt b (t - 1)))
    else if checksumOf (sliceOf b 0 (t - 2)) ≠ byteAt b (t - 2) then
      some (.checksumMismatch (checksumOf (sliceOf b 0 (t - 2))) (byteAt b (t - 2)))
    else none

/-- Step 8 of `DECODE` (R144): the Message of an accepted frame. -/
def frameMessage (b : Bytes) : Message where
  signature := byteAt b 5
  instruction := byteAt b 6
  address := byteAt b 4
  payload := sliceOf b 7 (b.length - 2)

/-- `DECODE(b, chk)` (R136): structural checks, then with `chk` the response code, then the Message. -/
def decodeFrame (c : Cfg) (b : Bytes) (chk : Bool) : Result Message :=
  match structuralError c b with
  | some e => .err e
  | none =>
    match (if chk then codeError (byteAt b 6) else none) with
    | some e => .err e
    | none => .ok (frameMessage b)

/-- The default of `DECODE`'s `chk` when a caller omits it (R135; log 16). -/
def defaultCheck : Bool := true

/-- A Message built by a caller who may give no address: it is then `CFG.ADDR_DEFAULT` (R19; log 16). -/
def buildMessage (c : Cfg) (signature instruction : Byte) (address : Option Byte) (payload : Bytes) : Message where
  signature := signature
  instruction := instruction
  address := address.getD c.addrDefault
  payload := payload

/-- `ROUNDTRIP m` (R119): `ENCODE m`, then `DECODE` of the bytes with `chk = 0`. -/
def roundtrip (c : Cfg) (m : Message) : Result Message :=
  match encodeFrame c m with
  | .ok f => decodeFrame c f false
  | .err e => .err e

/-- The instruction `CHECKSUM` (R130). -/
def execChecksum (b : Bytes) (s : State) : Host.Outcome State Fault Refusal :=
  answerPure s (.checksum (checksumOf b))

/-- The instruction `ENCODE` (R132). -/
def execEncode (m : Message) (s : State) : Host.Outcome State Fault Refusal :=
  answerPure s (.encoded (encodeFrame s.cfg m))

/-- The instruction `DECODE` (R135, R136). -/
def execDecode (b : Bytes) (chk : Bool) (s : State) : Host.Outcome State Fault Refusal :=
  answerPure s (.decoded (decodeFrame s.cfg b chk))

end Sys2Proof.Machine
end

