-- ==== Sys2Proof/Machine/StreamFramer.lean ====
section
/-! DEFINITION. The StreamFramer unit: `SF.RESET` (R181), `SF.FEED` (R182 to R186), `SF.IDLE` (R187), and the run of a byte
sequence, `SF.RUN` (R119, R190). -/

namespace Sys2Proof.Machine

/-- The registers and events a framer step leaves, or the fault it met. -/
abbrev FramerStep := Except Fault (State × List Event)

/-- The warning of `COMPLETE` (R186): the candidate's last byte is not `TERM`. -/
def terminatorWarning (c : Cfg) (raw : Bytes) : List Event :=
  if byteAt raw (raw.length - 1) ≠ c.termByte then [.missingTerminator] else []

/-- The fate of a candidate (R186): `Frame` or `Discarded`, as `DECODE` with `SF_CHECK` judges it. -/
def candidateEvent (c : Cfg) (raw : Bytes) : Event :=
  match decodeFrame c raw c.sfCheck with
  | .ok m => .frame raw m
  | .err e => .discarded e raw

/-- `COMPLETE()` (R186). -/
def complete (s : State) : FramerStep :=
  match s.bufPart s.n.toNat with
  | .error f => .error f
  | .ok raw => .ok (s.resync, terminatorWarning s.cfg raw ++ [candidateEvent s.cfg raw])

/-- `SF.FEED(x)` in `SEEKING_PREFIX` (R183). -/
def feedSeeking (x : Byte) (s : State) : FramerStep :=
  if x ≠ s.cfg.prefixByte then .ok (s, [.skip x])
  else
    match s.append x with
    | .error f => .error f
    | .ok t => .ok ({ t with st := .readingHeader }, [])

/-- The header check of R184, when the fourth byte is held. -/
def checkHeader (t : State) : FramerStep :=
  match t.bufPart hdrLen with
  | .error f => .error f
  | .ok h =>
    if byteAt h 0 ≠ t.cfg.prefixByte ∨ byteAt h 1 ≠ t.cfg.formatByte then .ok (t.resync, [.badHeader h])
    else
      let l := u16be (byteAt h 2) (byteAt h 3)
      let u := { t with rem := BitVec.ofNat 16 l }
      if l = 0 then complete u else .ok ({ u with st := .readingBody }, [])

/-- `SF.FEED(x)` in `READING_HEADER` (R184). -/
def feedHeader (x : Byte) (s : State) : FramerStep :=
  match s.append x with
  | .error f => .error f
  | .ok t => if t.n.toNat < hdrLen then .ok (t, []) else checkHeader t

/-- `SF.FEED(x)` in `READING_BODY` (R185); `rem` is decremented only when it is at least 1 (R197, log 11). -/
def feedBody (x : Byte) (s : State) : FramerStep :=
  if s.rem = 0 then .error .remUnderflow
  else
    match s.append x with
    | .error f => .error f
    | .ok t =>
      let u := { t with rem := t.rem - 1 }
      if u.rem = 0 then complete u else .ok (u, [])

/-- `SF.FEED(x)`: dispatch on `st` as the step begins (R182). -/
def feed (x : Byte) (s : State) : FramerStep :=
  match s.st with
  | .seekingPrefix => feedSeeking x s
  | .readingHeader => feedHeader x s
  | .readingBody => feedBody x s

/-- `SF.RUN(s)` (R119, R190): the end state, and the concatenation of the steps' event lists. -/
def feedAll : Bytes → State → FramerStep
  | [], s => .ok (s, [])
  | x :: xs, s =>
    match feed x s with
    | .error f => .error f
    | .ok (t, evs) =>
      match feedAll xs t with
      | .error f => .error f
      | .ok (u, more) => .ok (u, evs ++ more)

/-- The instruction `SF.RESET` (R181): the registers at their reset values, no events; a partial frame is lost. -/
def execSfReset (s : State) : Host.Outcome State Fault Refusal := finish (.ok (s.resync, []))

/-- The instruction `SF.FEED` (R182). -/
def execSfFeed (x : Byte) (s : State) : Host.Outcome State Fault Refusal := finish (feed x s)

/-- The instruction `SF.IDLE` (R187): nothing is written, no events. -/
def execSfIdle (s : State) : Host.Outcome State Fault Refusal := finish (.ok (s, []))

end Sys2Proof.Machine
end

