-- ==== Sys2Proof/Machine/Wire.lean ====
section
/-! DEFINITION. The wire patterns of the table (R92, R94, R100): what the block does with such bytes. A frame and a header reach
the framer byte by byte (R2, R119; log 7); a record is decoded to its Point (R220, R221; log 8). -/

namespace Sys2Proof.Machine

/-- `WIRE.FRAME_EMPTY` (R92): `SF.RUN` of the nine bytes. -/
def execWireFrameEmpty (pfx fmt addr sig code chksum term : Byte) (s : State) : Host.Outcome State Fault Refusal :=
  finish (feedAll [pfx, fmt, 0x00, 0x05, addr, sig, code, chksum, term] s)

/-- `WIRE.HEADER` (R94): `SF.RUN` of the four bytes. -/
def execWireHeader (pfx fmt lenHi lenLo : Byte) (s : State) : Host.Outcome State Fault Refusal :=
  finish (feedAll [pfx, fmt, lenHi, lenLo] s)

/-- `WIRE.RECORD` (R100): the record's one Point. -/
def execWireRecord (channel power state t1 t0 t3 t2 : Byte) (s : State) : Host.Outcome State Fault Refusal :=
  answerPure s (.points (.ok [{ channel := channel, powerFlag := power, stateFlag := state, tempRaw := temp32 t1 t0 t3 t2 }]))

end Sys2Proof.Machine
end

