-- ==== Sys2Proof/Machine/Dispatch.lean ====
section
/-! DEFINITION. One arm per row of spec/opcode_table.json. -/

namespace Sys2Proof.Machine

def exec (i : Instr) (s : State) : Host.Outcome State Fault Refusal :=
  match i with
  | .sfReset => Sys2Proof.Machine.execSfReset s
  | .sfFeed x => Sys2Proof.Machine.execSfFeed x s
  | .sfIdle => Sys2Proof.Machine.execSfIdle s
  | .checksum b => Sys2Proof.Machine.execChecksum b s
  | .encode m => Sys2Proof.Machine.execEncode m s
  | .decode b chk => Sys2Proof.Machine.execDecode b chk s
  | .ackclass code => Sys2Proof.Machine.execAckclass code s
  | .mdecode p => Sys2Proof.Machine.execMdecode p s
  | .tempsplit v => Sys2Proof.Machine.execTempsplit v s
  | .ackOk => Sys2Proof.Machine.execAckOk s
  | .ackDeverr01 => Sys2Proof.Machine.execAckDeverr01 s
  | .ackDeverr02 => Sys2Proof.Machine.execAckDeverr02 s
  | .ackDeverr03 => Sys2Proof.Machine.execAckDeverr03 s
  | .ackDeverr04 => Sys2Proof.Machine.execAckDeverr04 s
  | .ackDeverr05 => Sys2Proof.Machine.execAckDeverr05 s
  | .ackDeverr06 => Sys2Proof.Machine.execAckDeverr06 s
  | .ackUnsolicited0A => Sys2Proof.Machine.execAckUnsolicited0A s
  | .ackUnsolicited0B => Sys2Proof.Machine.execAckUnsolicited0B s
  | .ackUnsolicited0C => Sys2Proof.Machine.execAckUnsolicited0C s
  | .ackUnsolicited0D => Sys2Proof.Machine.execAckUnsolicited0D s
  | .ackUnsolicited0E => Sys2Proof.Machine.execAckUnsolicited0E s
  | .ackUnsolicited0F => Sys2Proof.Machine.execAckUnsolicited0F s
  | .ackInvalid07 => Sys2Proof.Machine.execAckInvalid07 s
  | .ackInvalid08 code => Sys2Proof.Machine.execAckInvalid08 code s
  | .ackInvalid10 code => Sys2Proof.Machine.execAckInvalid10 code s
  | .ackInvalid20 code => Sys2Proof.Machine.execAckInvalid20 code s
  | .ackInvalid40 code => Sys2Proof.Machine.execAckInvalid40 code s
  | .ackInvalid80 code => Sys2Proof.Machine.execAckInvalid80 code s
  | .wireFrameEmpty pfx fmt addr sig code chksum term => Sys2Proof.Machine.execWireFrameEmpty pfx fmt addr sig code chksum term s
  | .wireHeader pfx fmt lenHi lenLo => Sys2Proof.Machine.execWireHeader pfx fmt lenHi lenLo s
  | .wireRecord channel power state t1 t0 t3 t2 => Sys2Proof.Machine.execWireRecord channel power state t1 t0 t3 t2 s

end Sys2Proof.Machine
end

