-- ==== Sys2Proof/Machine/Step.lean ====
section
/-! DEFINITION. One step: the host's next operation, decoded and executed. -/

namespace Sys2Proof.Machine

/-- One step. The host's next request is taken, decoded and executed (R13: one operation is one step); where the host issues
nothing the registers stay and nothing is handed out (log 1); a request that is no instruction is refused (R265). -/
def step (s : State) : Host.Outcome State Fault Refusal :=
  match s.fetch with
  | none => .next (s.answer .nothing)
  | some (r, t) =>
    match decode r with
    | .ok i => exec i t
    | .reject e => .refused (.undecodable e)

/-- `s` with the instruction of a table word as the host's next request (log 1, log 3). -/
def State.withFetchWord (s : State) (nbits w : Nat) : State := s.place (tableRequest nbits w)

end Sys2Proof.Machine
end

