-- ==== Sys2Proof/Machine/Flags.lean ====
section
/-! DEFINITION. The flag analogues (R37): what a result or an event says in numbers on a result port (R251), the error
families (R240), the code of `st` (R31), the fault bits of a Point (R226) and its exact temperature (R223). -/

namespace Sys2Proof.Machine

/-- The hardware encoding of `st` (R31). -/
def stCode : St → BitVec 2
  | .seekingPrefix => 0
  | .readingHeader => 1
  | .readingBody => 2

/-- The numeric error codes (R251). -/
def errCode : Err → Nat
  | .payloadTooLarge _ => 1
  | .frameTooShort _ => 2
  | .badPrefix _ => 3
  | .badFormat _ => 4
  | .lengthMismatch _ _ => 5
  | .badTerminator _ => 6
  | .checksumMismatch _ _ => 7
  | .deviceError _ => 8
  | .invalidResponseCode _ => 9
  | .truncatedRecord _ => 10

/-- The `err` port of a result: 0 accompanies every `ok` (R251). -/
def resultCode {α : Type} : Result α → Nat
  | .ok _ => 0
  | .err e => errCode e

/-- The error families (R240, R251). -/
inductive ErrFamily where
  | structural
  | deviceReported
  | invalidCode
  deriving DecidableEq, Repr

/-- The family of an error kind (R251). -/
def errFamily : Err → ErrFamily
  | .payloadTooLarge _ => .structural
  | .frameTooShort _ => .structural
  | .badPrefix _ => .structural
  | .badFormat _ => .structural
  | .lengthMismatch _ _ => .structural
  | .badTerminator _ => .structural
  | .checksumMismatch _ _ => .structural
  | .deviceError _ => .deviceReported
  | .invalidResponseCode _ => .invalidCode
  | .truncatedRecord _ => .structural

/-- The framer event codes (R251). -/
def eventCode : Event → Nat
  | .skip _ => 1
  | .badHeader _ => 2
  | .missingTerminator => 3
  | .discarded _ _ => 4
  | .frame _ _ => 5

/-- The `err` port of a step's output (R251); the framer's operations never fail themselves (R182). -/
def outputErrCode : Output → Nat
  | .nothing => 0
  | .events _ => 0
  | .checksum _ => 0
  | .encoded r => resultCode r
  | .decoded r => resultCode r
  | .ackClass _ => 0
  | .points r => resultCode r
  | .split _ => 0

/-- The input bytes an event accounts for (R263): one for `Skip`, four for `BadHeader`, the candidate's for `Discarded` and
`Frame`; `MissingTerminator` is a warning about the candidate the next event carries. -/
def eventBytes : Event → Bytes
  | .skip x => [x]
  | .badHeader h => h
  | .missingTerminator => []
  | .discarded _ raw => raw
  | .frame raw _ => raw

/-- `power_fault` (R226). -/
def powerFault (p : Point) : Bool := p.powerFlag != 0

/-- `state_fault` (R226). -/
def stateFault (p : Point) : Bool := p.stateFlag != 0

/-- The temperature of a Point: exactly `temp_raw / 100` (R223); for statements only, no operation divides. -/
def temperature (p : Point) : Rat := (p.tempRaw.toInt : Rat) / (tempScale : Rat)

/-- The decimal rendering of `TEMPSPLIT`'s result (R225): sign, whole part, point, two fraction digits. -/
def renderTemp (p : TempParts) : String :=
  (if p.neg then "-" else "") ++ toString p.whole ++ "." ++ toString (p.frac / 10) ++ toString (p.frac % 10)

end Sys2Proof.Machine
end

