-- ==== Sys2Proof/Safety.lean ====
section
/-! DEFINITION. The terms in which statements speak of the machine: the invariant of the framer's registers (R35), the bytes held,
runs of steps, and which instructions are pure. -/

namespace Sys2Proof.Machine

/-- `buf`, the bytes held in arrival order (R11): the values of the cells. -/
def State.heldBytes (s : State) : Bytes := s.buf.map Prod.snd

/-- The framer is in the state `SF.RESET` leaves (R40). -/
def State.atReset (s : State) : Prop := s.st = .seekingPrefix ∧ s.buf = [] ∧ s.n = 0 ∧ s.rem = 0

/-- What R35 says of each state of the framer, over the bytes held. -/
def State.stateInv (s : State) : Prop :=
  match s.st with
  | .seekingPrefix => s.n = 0 ∧ s.rem = 0
  | .readingHeader =>
    1 ≤ s.n.toNat ∧ s.n.toNat ≤ 3 ∧ s.rem = 0 ∧ byteAt s.heldBytes 0 = s.cfg.prefixByte
  | .readingBody =>
    4 ≤ s.n.toNat ∧ 1 ≤ s.rem.toNat ∧ byteAt s.heldBytes 0 = s.cfg.prefixByte ∧
      byteAt s.heldBytes 1 = s.cfg.formatByte ∧
      s.n.toNat + s.rem.toNat = 4 + u16be (byteAt s.heldBytes 2) (byteAt s.heldBytes 3)

/-- The invariant R35 for arbitrary `CFG`, with the memory's form: `BUF` holds exactly the indices `0..n-1` (R33). -/
def State.Inv (s : State) : Prop := s.buf.map Prod.fst = List.range s.n.toNat ∧ s.stateInv

/-- The registers of the framer and the configuration are the same (R42's columns). -/
def sameFramer (s t : State) : Prop :=
  t.cfg = s.cfg ∧ t.st = s.st ∧ t.buf = s.buf ∧ t.n = s.n ∧ t.rem = s.rem

/-- `t` is reached from `s` by steps that all answered a next state. -/
inductive Reaches (s : State) : State → Prop where
  | refl : Reaches s s
  | step {t u : State} : Reaches s t → Sys2Proof.Machine.step t = .next u → Reaches s u

/-- The operations that hand bytes to the framer; every other instruction's frame is R42's. -/
def feedsFramer : Instr → Bool
  | .sfFeed _ => true
  | .wireFrameEmpty _ _ _ _ _ _ _ => true
  | .wireHeader _ _ _ _ => true
  | _ => false

end Sys2Proof.Machine
end

