-- ==== Sys2Proof/Certificates/Slice0/Obligations.lean ====
section
/-! DEFINITION. The statements for the provers. Each docstring names the rule of spec/ it formalises, or says that it is the
model's own and names the log entry. -/

open Sys2Proof Sys2Proof.Machine

/-! Encodings -/

/-- The request of every well-formed instruction decodes to that instruction, with every operand at every value (R103, R120;
the layout of operands is the model's: log 2). -/
def Obligations.RequestsOfInstructionsDecodeBack : Prop :=
  ∀ i : Instr, wellFormed i = true → decode (encode i) = .ok i

/-- Every request that decodes is the request of the one well-formed instruction it decodes to: no two requests mean the same and
nothing of a request is dropped (log 2). -/
def Obligations.DecodedRequestsAreEncodings : Prop :=
  ∀ (r : Request) (i : Instr), decode r = .ok i → wellFormed i = true ∧ encode i = r

/-- R120: the ACK rows together match every byte exactly once, and the row's class is the one `ACKCLASS` answers. -/
def Obligations.EveryResponseCodeHasOneRow : Prop :=
  ∀ code : Byte, ∃ i : Instr,
    (wellFormed i = true ∧ encode i = ⟨.ack, [code]⟩) ∧
      (∀ j : Instr, wellFormed j = true → encode j = ⟨.ack, [code]⟩ → j = i) ∧
      ∀ s : State, exec i s = exec (.ackclass code) s

/-- Words written out from R103, R170, R92, R94 and R100 decode to what they stand for; `opsel` 9 stands for nothing. -/
def Obligations.WrittenOutWordsDecode : Prop :=
  decode ⟨.op, [0x00]⟩ = .ok .sfReset ∧
    decode ⟨.op, [0x01, 0x2A]⟩ = .ok (.sfFeed 0x2A) ∧
    decode ⟨.op, [0x06, 0x0D]⟩ = .ok (.ackclass 0x0D) ∧
    decode ⟨.ack, [0x0D]⟩ = .ok .ackUnsolicited0D ∧
    decode ⟨.ack, [0x09]⟩ = .ok (.ackInvalid08 0x09) ∧
    decode ⟨.header, [0x2A, 0x61, 0x00, 0x07]⟩ = .ok (.wireHeader 0x2A 0x61 0x00 0x07) ∧
    decode ⟨.frame, [0x2A, 0x61, 0x00, 0x05, 0xFE, 0x02, 0xF3, 0x7C, 0x0D]⟩ =
      .ok (.wireFrameEmpty 0x2A 0x61 0xFE 0x02 0xF3 0x7C 0x0D) ∧
    decode ⟨.record, [0x01, 0x00, 0x00, 0x09, 0x29, 0x00, 0x00]⟩ =
      .ok (.wireRecord 0x01 0x00 0x00 0x09 0x29 0x00 0x00) ∧
    decode ⟨.op, [0x09]⟩ = .reject (.unassignedOpsel 0x09)

/-- R106 (f), R265: an `opsel` outside 0..8 has no meaning; the step refuses it by name, whatever follows it. -/
def Obligations.UnassignedSelectorsAreRefused : Prop :=
  ∀ (s : State) (b : Byte) (operands : Bytes) (rest : List Request),
    9 ≤ b.toNat → s.pending = ⟨.op, b :: operands⟩ :: rest → step s = .refused (.undecodable (.unassignedOpsel b))

/-! Steps and reset -/

/-- One step is one operation (R13): where the host's next request decodes, the step is `exec` of it from the state without the
request; where the host issues nothing, only the results are cleared (log 1). -/
def Obligations.StepExecutesDecodedRequest : Prop :=
  ∀ s : State,
    (∀ (r : Request) (rest : List Request) (i : Instr), s.pending = r :: rest → decode r = .ok i →
      step s = exec i { s with pending := rest }) ∧
    (s.pending = [] → step s = .next { s with out := .nothing })

/-- R40: reset and `SF.RESET` leave `st = SEEKING_PREFIX`, `n = 0`, `rem = 0` and no byte held; the configuration is the one the
block was instantiated with. -/
def Obligations.ResetLeavesFramerEmpty : Prop :=
  (∀ c : Cfg, (State.resetWith c).st = .seekingPrefix ∧ (State.resetWith c).n = 0 ∧ (State.resetWith c).rem = 0 ∧
    (State.resetWith c).heldBytes = [] ∧ (State.resetWith c).cfg = c) ∧
  ∀ s : State, ∃ t : State, exec .sfReset s = .next t ∧ t.st = .seekingPrefix ∧ t.n = 0 ∧ t.rem = 0 ∧ t.heldBytes = [] ∧
    t.cfg = s.cfg

/-- The model's choice (log 1, log 4, log 5): `State.reset` is instantiated with R6's defaults, holds no results and no request. -/
def Obligations.ResetTakesDefaultConfiguration : Prop :=
  State.reset.cfg.prefixByte = 0x2A ∧ State.reset.cfg.formatByte = 0x61 ∧ State.reset.cfg.termByte = 0x0D ∧
    State.reset.cfg.addrBroadcast = 0xFF ∧ State.reset.cfg.addrDefault = 0xFE ∧ State.reset.cfg.sfCheck = true ∧
    State.reset.out = .nothing ∧ State.reset.pending = []

/-- The invariant holds after reset, for every configuration (R35, R40). -/
def Obligations.ResetSatisfiesInvariant : Prop :=
  ∀ c : Cfg, (State.resetWith c).Inv

/-! Invariants of the machine -/

/-- "Invariant of every reachable framer state, for arbitrary CFG" (R35, marked derived in the spec): every step keeps it. -/
def Obligations.StepKeepsFramerInvariant : Prop :=
  ∀ s t : State, s.Inv → step s = .next t → t.Inv

/-- Under the invariant no step faults: an append never overflows, no unwritten byte is read, `rem` never underflows (R35, R32,
R34, R197). -/
def Obligations.NoStepFaultsUnderInvariant : Prop :=
  ∀ (s : State) (f : Fault), s.Inv → step s ≠ .fault f

/-- R265: every operation is enabled in every (reachable) state. Every instruction answers a next state, which keeps the
invariant, the configuration and the host's further requests. -/
def Obligations.EveryInstructionCompletes : Prop :=
  ∀ (i : Instr) (s : State), s.Inv →
    ∃ t : State, exec i s = .next t ∧ t.Inv ∧ t.cfg = s.cfg ∧ t.pending = s.pending

/-- In every state, reachable or not, a step keeps the canonical form of `BUF`'s cells (R32, log 9). -/
def Obligations.StepKeepsBufferCanonical : Prop :=
  ∀ s t : State, s.buf.wf = true → step s = .next t → t.buf.wf = true

/-- R36: no operation writes `CFG`, in any state. -/
def Obligations.NoOperationWritesConfiguration : Prop :=
  (∀ (i : Instr) (s t : State), exec i s = .next t → t.cfg = s.cfg) ∧ ∀ s t : State, Reaches s t → t.cfg = s.cfg

/-- R36: `ADDR_BROADCAST` and `ADDR_DEFAULT` are read by no operation: with other values every instruction ends the same way. -/
def Obligations.AddressConstantsAreNeverRead : Prop :=
  ∀ (i : Instr) (s t : State) (a d : Byte), exec i s = .next t →
    exec i { s with cfg := { s.cfg with addrBroadcast := a, addrDefault := d } } =
      .next { t with cfg := { t.cfg with addrBroadcast := a, addrDefault := d } }

/-- R253, R290: nothing of earlier results reaches a later operation. -/
def Obligations.EarlierResultsNeverMatter : Prop :=
  ∀ (i : Instr) (s : State) (o : Output), exec i { s with out := o } = exec i s

/-- R42, R255: an operation other than `SF.RESET` and those that feed the framer writes nothing but its result, and its result
depends on no register of the framer and on no field of `CFG` but `PREFIX`, `FORMAT` and `TERM`; if it is neither `ENCODE` nor `DECODE`, on no
field of `CFG` at all. -/
def Obligations.PureOperationsOnlyAnswer : Prop :=
  ∀ (i : Instr) (s t : State), feedsFramer i = false → i ≠ .sfReset →
    ((s.cfg.prefixByte = t.cfg.prefixByte ∧ s.cfg.formatByte = t.cfg.formatByte ∧ s.cfg.termByte = t.cfg.termByte) ∨
      ((∀ m : Message, i ≠ .encode m) ∧ ∀ (b : Bytes) (chk : Bool), i ≠ .decode b chk)) →
    ∃ o : Output, exec i s = .next { s with out := o } ∧ exec i t = .next { t with out := o }

/-! The StreamFramer. That `BUF` is written as cells, one for each byte held and none after a clear, is the model's form of R33 (log 9,
log 12), and an operation's result is read in the field `out` (log 4). -/

/-- R181: `SF.RESET` (`opsel` 0, the request's first byte by log 2; no operands) sets `st`, `n` and `rem` and drops the bytes held without an event; applied in the reset
state it changes nothing. `BUF`'s cells: log 9, log 12. -/
def Obligations.SfResetEmptiesFramer : Prop :=
  encode .sfReset = ⟨.op, [0x0]⟩ ∧
  ∀ s : State,
    exec .sfReset s =
      .next { s with st := .seekingPrefix, buf := [], n := 0, rem := 0, out := .events [] } ∧
    (s.atReset → ∀ t : State, exec .sfReset s = .next t → sameFramer s t)

/-- R187: `SF.IDLE` (`opsel` 2, the request's first byte by log 2; no operands) writes no register and returns no events, and no number of
consecutive `SF.IDLE` steps changes the framer. -/
def Obligations.IdlePollsNeverChangeFramer : Prop :=
  encode .sfIdle = ⟨.op, [0x2]⟩ ∧ (∀ s : State, exec .sfIdle s = .next { s with out := .events [] }) ∧
  ∀ (k : Nat) (s : State) (rest : List Request), s.pending = List.replicate k (encode .sfIdle) ++ rest →
    ∃ t : State, Host.Core.run Sys2Proof.core k s = .next t ∧ sameFramer s t ∧ t.pending = rest

/-- R183: `SF.FEED(x)` in `SEEKING_PREFIX` (`BUF`'s cells: log 9). -/
def Obligations.SeekingSkipsOrStarts : Prop :=
  ∀ (s : State) (x : Byte), s.Inv → s.st = .seekingPrefix →
    (x ≠ s.cfg.prefixByte → exec (.sfFeed x) s = .next { s with out := .events [.skip x] }) ∧
    (x = s.cfg.prefixByte →
      exec (.sfFeed x) s = .next { s with st := .readingHeader, buf := [(0, x)], n := 1, out := .events [] })

/-- R184 (with R186 for the header that announces no byte, R193): `SF.FEED(x)` in `READING_HEADER` (`BUF`'s cells: log 9,
log 12). -/
def Obligations.HeaderBytesAreCollectedThenChecked : Prop :=
  ∀ (s : State) (x : Byte), s.Inv → s.st = .readingHeader →
    let h := s.heldBytes ++ [x]
    let l := u16be (byteAt h 2) (byteAt h 3)
    let drop := fun evs : List Event =>
      { s with st := .seekingPrefix, buf := [], n := 0, rem := 0, out := .events evs }
    (s.n.toNat < 3 →
      exec (.sfFeed x) s =
        .next { s with buf := s.buf ++ [(s.n.toNat, x)], n := s.n + 1, out := .events [] }) ∧
    (s.n.toNat = 3 → (byteAt h 0 ≠ s.cfg.prefixByte ∨ byteAt h 1 ≠ s.cfg.formatByte) →
      exec (.sfFeed x) s = .next (drop [.badHeader h])) ∧
    (s.n.toNat = 3 → byteAt h 0 = s.cfg.prefixByte → byteAt h 1 = s.cfg.formatByte → l ≠ 0 →
      exec (.sfFeed x) s =
        .next { s with st := .readingBody, buf := s.buf ++ [(3, x)], n := 4, rem := BitVec.ofNat 16 l, out := .events [] }) ∧
    (s.n.toNat = 3 → byteAt h 0 = s.cfg.prefixByte → byteAt h 1 = s.cfg.formatByte → l = 0 →
      exec (.sfFeed x) s =
        .next (drop ((if x ≠ s.cfg.termByte then [.missingTerminator] else []) ++ [.discarded (.frameTooShort 4) h])))

/-- R185, with the `COMPLETE` of R186 as its tail: `SF.FEED(x)` in `READING_BODY` (`BUF`'s cells: log 9, log 12). -/
def Obligations.BodyBytesAreCountedThenDecoded : Prop :=
  ∀ (s : State) (x : Byte), s.Inv → s.st = .readingBody →
    let raw := s.heldBytes ++ [x]
    (s.rem ≠ 1 →
      exec (.sfFeed x) s =
        .next { s with buf := s.buf ++ [(s.n.toNat, x)], n := s.n + 1, rem := s.rem - 1, out := .events [] }) ∧
    (s.rem = 1 →
      exec (.sfFeed x) s =
        .next
          { s with
            st := .seekingPrefix, buf := [], n := 0, rem := 0,
            out :=
              .events
                ((if x ≠ s.cfg.termByte then [.missingTerminator] else []) ++
                  [match decodeFrame s.cfg raw s.cfg.sfCheck with
                    | .ok m => .frame raw m
                    | .err e => .discarded e raw]) })

/-- R189: the event lists a step of `SF.FEED` can return, in any state. -/
def Obligations.FeedEventListsHaveSixShapes : Prop :=
  ∀ (s t : State) (x : Byte), exec (.sfFeed x) s = .next t →
    t.out = .events [] ∨ t.out = .events [.skip x] ∨ (∃ h, t.out = .events [.badHeader h]) ∨
      (∃ raw m, t.out = .events [.frame raw m]) ∨ (∃ e raw, t.out = .events [.discarded e raw]) ∨
      ∃ e raw, t.out = .events [.missingTerminator, .discarded e raw]

/-- R41, R256: a step that reports anything but a skip leaves the framer in the reset state. -/
def Obligations.CandidatesEndInResetState : Prop :=
  ∀ (s t : State) (x : Byte) (evs : List Event) (e : Event), exec (.sfFeed x) s = .next t → t.out = .events evs →
    e ∈ evs → (∀ y, e ≠ .skip y) → t.atReset

/-- The frame of `SF.FEED`, in any state: the configuration and the requests stay; a skipped byte changes no register; a step that
ends in `SEEKING_PREFIX` otherwise has dropped every byte; a step that goes on reading has stored `x` at index `n`, and every other address
of `BUF` reads as before. -/
def Obligations.FeedStoresOneByteOrDropsAll : Prop :=
  ∀ (s t : State) (x : Byte), exec (.sfFeed x) s = .next t →
    t.cfg = s.cfg ∧ t.pending = s.pending ∧
      if s.st = .seekingPrefix ∧ x ≠ s.cfg.prefixByte then sameFramer s t
      else if t.st = .seekingPrefix then (∀ a, t.buf.read a = none) ∧ t.n = 0 ∧ t.rem = 0
      else t.n = s.n + 1 ∧ t.buf.read s.n.toNat = some x ∧ ∀ a, a ≠ s.n.toNat → t.buf.read a = s.buf.read a

/-- R194 (derived in the spec): which errors a framer can report, and that an emitted frame is the encoding of its Message. -/
def Obligations.FramerReportsOnlyBodyErrors : Prop :=
  ∀ (s t : State) (x : Byte) (evs : List Event), s.Inv → exec (.sfFeed x) s = .next t → t.out = .events evs →
    (∀ e raw, .discarded e raw ∈ evs →
      (∀ b, e ≠ .badPrefix b) ∧ (∀ b, e ≠ .badFormat b) ∧ (∀ k, e ≠ .payloadTooLarge k) ∧
        (∀ k, e ≠ .truncatedRecord k) ∧ (∀ l k, e = .lengthMismatch l k → l = 3 ∨ l = 4) ∧
        (∀ k, e = .frameTooShort k → u16be (byteAt raw 2) (byteAt raw 3) ≤ 2) ∧
        (errFamily e ≠ .structural → s.cfg.sfCheck = true)) ∧
    ∀ raw m, .frame raw m ∈ evs → encodeFrame s.cfg m = .ok raw

/-- R263 (derived in the spec): every byte fed is in exactly one event or still held, in arrival order. -/
def Obligations.EveryFedByteIsAccountedFor : Prop :=
  ∀ (s : State) (bs : Bytes), s.Inv →
    ∃ (t : State) (evs : List Event), feedAll bs s = .ok (t, evs) ∧ t.Inv ∧
      s.heldBytes ++ bs = evs.flatMap eventBytes ++ t.heldBytes

/-- R190 (derived in the spec): a run of `a ++ b` is the run of `a` and then the run of `b`, events concatenated. -/
def Obligations.RunsSplitAnywhere : Prop :=
  ∀ (a b : Bytes) (s u : State) (evs : List Event),
    feedAll (a ++ b) s = .ok (u, evs) ↔
      ∃ t e₁ e₂, feedAll a s = .ok (t, e₁) ∧ feedAll b t = .ok (u, e₂) ∧ evs = e₁ ++ e₂

/-- R190, R187: a transcript of `SF.FEED` and `SF.IDLE` operations (`none` is a poll without a byte) runs the framer over its bytes, wherever the
idle polls stand. -/
def Obligations.TranscriptsRunTheFramer : Prop :=
  ∀ (ops : List (Option Byte)) (s t : State) (evs : List Event) (rest : List Request),
    s.pending = ops.map (fun o => match o with
      | some x => encode (.sfFeed x)
      | none => encode .sfIdle) ++ rest →
    feedAll (ops.filterMap id) s = .ok (t, evs) →
    ∃ u : State, Host.Core.run Sys2Proof.core ops.length s = .next u ∧ sameFramer t u ∧ u.pending = rest

/-- R99, R285, R293: while fewer bytes arrive than the header announced, no byte's value is looked at and no event is emitted. -/
def Obligations.BodyBytesAreNeverInspected : Prop :=
  ∀ (s : State) (bs : Bytes), s.Inv → s.st = .readingBody → bs.length < s.rem.toNat →
    ∃ t : State, feedAll bs s = .ok (t, []) ∧ t.st = .readingBody ∧ t.rem.toNat + bs.length = s.rem.toNat ∧
      t.heldBytes = s.heldBytes ++ bs

/-- R191: noise without a prefix byte, then one accepted frame: a skip for each noise byte, then the frame, and the framer is where it
started. -/
def Obligations.ResynchronisesAfterNoise : Prop :=
  ∀ (s : State) (z f : Bytes) (m : Message), s.atReset → (∀ b ∈ z, b ≠ s.cfg.prefixByte) →
    encodeFrame s.cfg m = .ok f → (∃ m', decodeFrame s.cfg f s.cfg.sfCheck = .ok m') →
    feedAll (z ++ f) s = .ok (s, z.map Event.skip ++ [.frame f m])

/-- R71, R16: frames sent one after the other are emitted in arrival order, each once. -/
def Obligations.FramesAreEmittedInArrivalOrder : Prop :=
  ∀ (s : State) (ms : List Message) (fs : List Bytes), s.atReset →
    List.Forall₂ (fun m f => encodeFrame s.cfg m = .ok f ∧ decodeFrame s.cfg f s.cfg.sfCheck = .ok m) ms fs →
    feedAll fs.flatten s = .ok (s, List.zipWith Event.frame fs ms)

/-! The wire patterns -/

/-- The model's reading (log 7): a header's or an empty frame's bytes are run through the framer. Under the invariant both answer the state and
the events of that run, and every byte is accounted for. -/
def Obligations.WireBytesRunTheFramer : Prop :=
  ∀ (s : State) (p f a g i k e h l : Byte), s.Inv →
    (∃ t evs, feedAll [p, f, 0x00, 0x05, a, g, i, k, e] s = .ok (t, evs) ∧
      exec (.wireFrameEmpty p f a g i k e) s = .next { t with out := .events evs } ∧
      t.cfg = s.cfg ∧ t.pending = s.pending ∧
      s.heldBytes ++ [p, f, 0x00, 0x05, a, g, i, k, e] = evs.flatMap eventBytes ++ t.heldBytes) ∧
    ∃ t evs, feedAll [p, f, h, l] s = .ok (t, evs) ∧
      exec (.wireHeader p f h l) s = .next { t with out := .events evs } ∧
      t.cfg = s.cfg ∧ t.pending = s.pending ∧
      s.heldBytes ++ [p, f, h, l] = evs.flatMap eventBytes ++ t.heldBytes

/-- R94, R184 on the pattern (log 7): four header bytes from the reset state, the first being the prefix. -/
def Obligations.WireHeaderFromReset : Prop :=
  ∀ (s : State) (f h l : Byte), s.atReset →
    (f ≠ s.cfg.formatByte →
      exec (.wireHeader s.cfg.prefixByte f h l) s =
        .next { s with out := .events [.badHeader [s.cfg.prefixByte, f, h, l]] }) ∧
    (f = s.cfg.formatByte → u16be h l ≠ 0 →
      exec (.wireHeader s.cfg.prefixByte f h l) s =
        .next
          { s with
            st := .readingBody, buf := [(0, s.cfg.prefixByte), (1, f), (2, h), (3, l)], n := 4,
            rem := BitVec.ofNat 16 (u16be h l), out := .events [] })

/-- R92, R186 on the pattern (log 7): a nine-byte frame from the reset state is judged by `DECODE` in the same step. -/
def Obligations.WireFrameFromReset : Prop :=
  ∀ (s : State) (a g i k e : Byte), s.atReset →
    let raw : Bytes := [s.cfg.prefixByte, s.cfg.formatByte, 0x00, 0x05, a, g, i, k, e]
    exec (.wireFrameEmpty s.cfg.prefixByte s.cfg.formatByte a g i k e) s =
      .next
        { s with
          out :=
            .events
              ((if e ≠ s.cfg.termByte then [.missingTerminator] else []) ++
                [match decodeFrame s.cfg raw s.cfg.sfCheck with
                  | .ok m => .frame raw m
                  | .err r => .discarded r raw]) }

/-- The model's reading (log 8): a record's seven bytes give the one Point `MDECODE` of them gives (R100, R221). -/
def Obligations.WireRecordIsItsPoint : Prop :=
  ∀ (s : State) (c p g w₀ w₁ w₂ w₃ : Byte),
    exec (.wireRecord c p g w₀ w₁ w₂ w₃) s =
      .next { s with out := .points (.ok [{ channel := c, powerFlag := p, stateFlag := g, tempRaw := temp32 w₀ w₁ w₂ w₃ }]) } ∧
    exec (.wireRecord c p g w₀ w₁ w₂ w₃) s = exec (.mdecode [c, p, g, w₀, w₁, w₂, w₃]) s

/-! The FrameCodec -/

/-- R130: `CHECKSUM` (`opsel` 3, the request's first byte by log 2) answers the byte (255 - sum) mod 256 and writes nothing. -/
def Obligations.ChecksumIsComplementOfSum : Prop :=
  ∀ (s : State) (b : Bytes), (encode (.checksum b)).bytes.head? = some 0x3 ∧
    ∃ c : Byte, exec (.checksum b) s = .next { s with out := .checksum c } ∧
      (c.toNat : Int) = (255 - ((b.map BitVec.toNat).sum : Int)) % 256

/-- R131 (derived in the spec): the equivalent forms (a) to (e) of the checksum. -/
def Obligations.ChecksumEquivalentForms : Prop :=
  ∀ (s t : Bytes) (x : Byte),
    (checksumOf s).toNat = 255 - byteSum s % 256 ∧
    checksumOf s = BitVec.ofNat 8 (byteSum s) ^^^ 0xFF ∧
    (s.Perm t → checksumOf s = checksumOf t) ∧
    (x = checksumOf s ↔ (byteSum s + x.toNat) % 256 = 255) ∧
    checksumOf (s ++ [x]) = checksumOf s - x

/-- R132: `ENCODE` (`opsel` 4, the request's first byte by log 2): the frame, or `PayloadTooLarge` exactly from 65531 payload bytes on. -/
def Obligations.EncodeBuildsTheFrame : Prop :=
  ∀ (s : State) (m : Message),
    (encode (.encode m)).bytes.head? = some 0x4 ∧
    (65531 ≤ m.payload.length →
      exec (.encode m) s = .next { s with out := .encoded (.err (.payloadTooLarge m.payload.length)) }) ∧
    (m.payload.length ≤ 65530 →
      let l := 5 + m.payload.length
      let covered := [s.cfg.prefixByte, s.cfg.formatByte, BitVec.ofNat 8 (l / 256), BitVec.ofNat 8 (l % 256), m.address,
        m.signature, m.instruction] ++ m.payload
      exec (.encode m) s =
        .next { s with out := .encoded (.ok (covered ++ [checksumOf covered, s.cfg.termByte])) })

/-- R92, with the length relation of R93: the byte at every offset of an encoded frame. -/
def Obligations.FrameLayout : Prop :=
  ∀ (s : State) (m : Message), m.payload.length ≤ 65530 →
    ∃ f : Bytes, exec (.encode m) s = .next { s with out := .encoded (.ok f) } ∧
      f.length = m.payload.length + 9 ∧
      byteAt f 0 = s.cfg.prefixByte ∧ byteAt f 1 = s.cfg.formatByte ∧
      u16be (byteAt f 2) (byteAt f 3) = 5 + m.payload.length ∧
      byteAt f 4 = m.address ∧ byteAt f 5 = m.signature ∧ byteAt f 6 = m.instruction ∧
      (∀ k, k < m.payload.length → byteAt f (7 + k) = byteAt m.payload k) ∧
      byteAt f (7 + m.payload.length) = checksumOf (f.take (7 + m.payload.length)) ∧
      byteAt f (8 + m.payload.length) = s.cfg.termByte

/-- R136: `DECODE`'s steps in their order; the first that fails is the result. -/
def Obligations.DecodeRunsItsChecksInOrder : Prop :=
  ∀ (s : State) (b : Bytes) (chk : Bool), ∃ r : Result Message,
    exec (.decode b chk) s = .next { s with out := .decoded r } ∧
    let t := b.length
    let l := u16be (byteAt b 2) (byteAt b 3)
    let sum := checksumOf (sliceOf b 0 (t - 2))
    if t < 7 then r = .err (.frameTooShort t)
    else if byteAt b 0 ≠ s.cfg.prefixByte then r = .err (.badPrefix (byteAt b 0))
    else if byteAt b 1 ≠ s.cfg.formatByte then r = .err (.badFormat (byteAt b 1))
    else if l ≠ t - 4 ∨ l < 5 then r = .err (.lengthMismatch l t)
    else if byteAt b (t - 1) ≠ s.cfg.termByte then r = .err (.badTerminator (byteAt b (t - 1)))
    else if sum ≠ byteAt b (t - 2) then r = .err (.checksumMismatch sum (byteAt b (t - 2)))
    else if chk = true ∧ 1 ≤ (byteAt b 6).toNat ∧ (byteAt b 6).toNat ≤ 6 then r = .err (.deviceError (byteAt b 6))
    else if chk = true ∧ byteAt b 6 ≠ 0 ∧ ¬ (10 ≤ (byteAt b 6).toNat ∧ (byteAt b 6).toNat ≤ 15) then
      r = .err (.invalidResponseCode (byteAt b 6))
    else r = .ok { signature := byteAt b 5, instruction := byteAt b 6, address := byteAt b 4, payload := sliceOf b 7 (t - 2) }

/-- R139, R137: inputs of 7 or 8 bytes, and inputs longer than the largest frame, never decode; nor does any input below 7 bytes. -/
def Obligations.OnlyFrameSizedInputsDecode : Prop :=
  ∀ (c : Cfg) (b : Bytes) (chk : Bool) (m : Message), decodeFrame c b chk = .ok m →
    9 ≤ b.length ∧ b.length ≤ 65539 ∧ u16be (byteAt b 2) (byteAt b 3) + 4 = b.length ∧
      m.payload.length + 9 = b.length

/-- R143, R142: what checking the response code adds to a decode without it. -/
def Obligations.ResponseCodeIsJudgedLast : Prop :=
  ∀ (s : State) (b : Bytes),
    (∀ e, decodeFrame s.cfg b false = .err e →
      errFamily e = .structural ∧ exec (.decode b true) s = .next { s with out := .decoded (.err e) }) ∧
    ∀ m, decodeFrame s.cfg b false = .ok m →
      exec (.decode b true) s =
        .next
          { s with
            out :=
              .decoded
                (if m.instruction = 0 ∨ (10 ≤ m.instruction.toNat ∧ m.instruction.toNat ≤ 15) then .ok m
                else if m.instruction.toNat ≤ 6 then .err (.deviceError m.instruction)
                else .err (.invalidResponseCode m.instruction)) }

/-- R146: the round trip; with checking it holds exactly for the codes classed `OK` or `UNSOLICITED`. -/
def Obligations.EncodeThenDecodeRoundTrip : Prop :=
  ∀ (s : State) (m : Message), m.payload.length ≤ 65530 →
    ∃ f : Bytes, exec (.encode m) s = .next { s with out := .encoded (.ok f) } ∧
      exec (.decode f false) s = .next { s with out := .decoded (.ok m) } ∧
      (exec (.decode f true) s = .next { s with out := .decoded (.ok m) } ↔
        classify m.instruction = .ok ∨ classify m.instruction = .unsolicited)

/-- R147 (derived in the spec): every accepted frame is the encoding of its Message, so decoding without checking and encoding are inverse. -/
def Obligations.AcceptedFramesAreEncodings : Prop :=
  ∀ (c : Cfg) (b : Bytes) (m : Message),
    (decodeFrame c b false = .ok m ↔ encodeFrame c m = .ok b) ∧ (decodeFrame c b true = .ok m → encodeFrame c m = .ok b)

/-- R148: flipping any single bit of an encoded frame makes `DECODE` fail with a structural error, and which one by position (the
positions are derived in the spec). -/
def Obligations.SingleBitFlipsAreDetected : Prop :=
  ∀ (c : Cfg) (m : Message) (f : Bytes) (i k : Nat) (chk : Bool), encodeFrame c m = .ok f → i < f.length → k < 8 →
    ∃ e, decodeFrame c (f.set i (byteAt f i ^^^ BitVec.ofNat 8 (2 ^ k))) chk = .err e ∧
      if i = 0 then ∃ b, e = .badPrefix b
      else if i = 1 then ∃ b, e = .badFormat b
      else if i < 4 then ∃ l t, e = .lengthMismatch l t
      else if i + 1 < f.length then ∃ x y, e = .checksumMismatch x y
      else ∃ b, e = .badTerminator b

/-- R149 (derived in the spec): a reordering of the payload is not detected; the altered Message is returned. -/
def Obligations.PayloadReorderingIsUndetected : Prop :=
  ∀ (c : Cfg) (m : Message) (p : Bytes) (f : Bytes), m.payload.Perm p → encodeFrame c m = .ok f →
    decodeFrame c (f.take 7 ++ p ++ f.drop (7 + p.length)) false = .ok { m with payload := p }

/-! The AckTaxonomy -/

/-- R170: the class of every response code; `ACKCLASS` (`opsel` 6, the request's first byte by log 2) writes nothing else. The table's last
column: what `DECODE` with `chk = 1` answers for a frame with that code that passes every structural check. -/
def Obligations.AckclassTable : Prop :=
  ∀ (s : State) (code : Byte), (encode (.ackclass code)).bytes.head? = some 0x6 ∧
    exec (.ackclass code) s =
      .next
        { s with
          out :=
            .ackClass
              (if code = 0x00 then .ok
              else if code = 0x01 then .deviceError .unspecified
              else if code = 0x02 then .deviceError .unrecognizedInstruction
              else if code = 0x03 then .deviceError .malformedData
              else if code = 0x04 then .deviceError .notPermitted
              else if code = 0x05 then .deviceError .deviceFault
              else if code = 0x06 then .deviceError .noData
              else if 0x0A ≤ code.toNat ∧ code.toNat ≤ 0x0F then .unsolicited
              else .invalid) } ∧
    ∀ (b : Bytes) (m : Message), decodeFrame s.cfg b false = .ok m → m.instruction = code →
      decodeFrame s.cfg b true =
        if code = 0x00 then .ok m
        else if code.toNat ≤ 0x06 then .err (.deviceError code)
        else if 0x0A ≤ code.toNat ∧ code.toNat ≤ 0x0F then .ok m
        else .err (.invalidResponseCode code)

/-- The rows `ACK.*` (log 6): each answers the class its row names and writes nothing else. -/
def Obligations.AckRowsNameTheirClasses : Prop :=
  ∀ (s : State) (code : Byte),
    let class_ := fun c : AckClass => (Host.Outcome.next { s with out := .ackClass c } : Host.Outcome State Fault Refusal)
    exec .ackOk s = class_ .ok ∧
      exec .ackDeverr01 s = class_ (.deviceError .unspecified) ∧
      exec .ackDeverr02 s = class_ (.deviceError .unrecognizedInstruction) ∧
      exec .ackDeverr03 s = class_ (.deviceError .malformedData) ∧
      exec .ackDeverr04 s = class_ (.deviceError .notPermitted) ∧
      exec .ackDeverr05 s = class_ (.deviceError .deviceFault) ∧
      exec .ackDeverr06 s = class_ (.deviceError .noData) ∧
      exec .ackUnsolicited0A s = class_ .unsolicited ∧
      exec .ackUnsolicited0B s = class_ .unsolicited ∧
      exec .ackUnsolicited0C s = class_ .unsolicited ∧
      exec .ackUnsolicited0D s = class_ .unsolicited ∧
      exec .ackUnsolicited0E s = class_ .unsolicited ∧
      exec .ackUnsolicited0F s = class_ .unsolicited ∧
      exec .ackInvalid07 s = class_ .invalid ∧
      exec (.ackInvalid08 code) s = class_ .invalid ∧
      exec (.ackInvalid10 code) s = class_ .invalid ∧
      exec (.ackInvalid20 code) s = class_ .invalid ∧
      exec (.ackInvalid40 code) s = class_ .invalid ∧
      exec (.ackInvalid80 code) s = class_ .invalid

/-- R171 (derived in the spec): of the 256 codes 1 is `OK`, 6 are device errors, 6 are unsolicited, 243 are invalid. -/
def Obligations.ResponseCodeClassCounts : Prop :=
  let codes := (List.range 256).map (BitVec.ofNat 8)
  (codes.filter fun c => classify c == .ok).length = 1 ∧
    (codes.filter fun c => classify c == .unsolicited).length = 6 ∧
    (codes.filter fun c => classify c == .invalid).length = 243 ∧
    ∀ c : Byte, (∃ k, classify c = .deviceError k) ↔ 1 ≤ c.toNat ∧ c.toNat ≤ 6

/-- R172, R174: classifying the code of a Message decoded without checking foretells what checking would have done. -/
def Obligations.ClassForetellsChecking : Prop :=
  ∀ (c : Cfg) (b : Bytes) (m : Message), decodeFrame c b false = .ok m →
    (classify m.instruction = .ok ∨ classify m.instruction = .unsolicited → decodeFrame c b true = .ok m) ∧
    (∀ k, classify m.instruction = .deviceError k → decodeFrame c b true = .err (.deviceError m.instruction)) ∧
    (classify m.instruction = .invalid → decodeFrame c b true = .err (.invalidResponseCode m.instruction))

/-! The MeasurementDecoder -/

/-- R220, R221: `MDECODE` (`opsel` 7, the request's first byte by log 2): no Point unless the length is a multiple of 7; else one Point for each record, in order, its
flag and channel bytes copied. -/
def Obligations.MdecodeGivesOnePointPerRecord : Prop :=
  ∀ (s : State) (p : Bytes), (encode (.mdecode p)).bytes.head? = some 0x7 ∧
    (p.length % 7 ≠ 0 → exec (.mdecode p) s = .next { s with out := .points (.err (.truncatedRecord p.length)) }) ∧
    (p.length % 7 = 0 →
      ∃ ps : List Point, exec (.mdecode p) s = .next { s with out := .points (.ok ps) } ∧ 7 * ps.length = p.length ∧
        ∀ k, k < ps.length →
          ps[k]? =
            some
              { channel := byteAt p (7 * k), powerFlag := byteAt p (7 * k + 1), stateFlag := byteAt p (7 * k + 2),
                tempRaw :=
                  temp32 (byteAt p (7 * k + 3)) (byteAt p (7 * k + 4)) (byteAt p (7 * k + 5)) (byteAt p (7 * k + 6)) })

/-- R222: the four temperature bytes in wire order `[t1, t0, t3, t2]`, read as a signed 32-bit integer. -/
def Obligations.TemperatureBytesArePermuted : Prop :=
  ∀ w₀ w₁ w₂ w₃ : Byte,
    let u := w₁.toNat + 256 * w₀.toNat + 65536 * w₃.toNat + 16777216 * w₂.toNat
    (temp32 w₀ w₁ w₂ w₃).toInt = if u < 2147483648 then (u : Int) else (u : Int) - 4294967296

/-- R228 (b) (derived in the spec) over whole payloads: `MDECODE` answers the Points exactly when the payload is their records, so
decoding is a bijection. -/
def Obligations.RecordCodingIsABijection : Prop :=
  ∀ (p : Bytes) (ps : List Point), decodePayload p = .ok ps ↔ p = ps.flatMap recEnc

/-- R225: `TEMPSPLIT` (`opsel` 8, the request's first byte by log 2), its ranges, its law, and its rendering. -/
def Obligations.TempsplitSignAndMagnitude : Prop :=
  ∀ (s : State) (v : BitVec 32), (encode (.tempsplit v)).bytes.head? = some 0x8 ∧
    ∃ q : TempParts, exec (.tempsplit v) s = .next { s with out := .split q } ∧
      (q.neg = true ↔ v.toInt < 0) ∧ q.whole = v.toInt.natAbs / 100 ∧ q.frac = v.toInt.natAbs % 100 ∧
      q.frac ≤ 99 ∧ q.whole ≤ 21474836 ∧
      v.toInt = (if q.neg then -1 else 1) * (100 * (q.whole : Int) + q.frac) ∧
      (q.neg = true → 0 < q.whole + q.frac) ∧
      renderTemp q =
        (if q.neg then "-" else "") ++ toString q.whole ++ "." ++ toString (q.frac / 10) ++ toString (q.frac % 10)

/-- R223: temperatures are equal exactly when `temp_raw` is, and compare as it compares. -/
def Obligations.TemperaturesCompareAsRaw : Prop :=
  ∀ p q : Point,
    (temperature p = temperature q ↔ p.tempRaw = q.tempRaw) ∧
      (temperature p ≤ temperature q ↔ p.tempRaw.toInt ≤ q.tempRaw.toInt) ∧
      temperature p * 100 = (p.tempRaw.toInt : Rat)

/-! Codes -/

/-- R251, R31: the numeric codes of errors, events and framer states; 0 accompanies every `ok`. -/
def Obligations.ResultPortCodes : Prop :=
  (∀ (k l : Nat) (x y : Byte) (raw : Bytes) (m : Message) (e : Err),
    errCode (.payloadTooLarge k) = 1 ∧ errCode (.frameTooShort k) = 2 ∧ errCode (.badPrefix x) = 3 ∧
      errCode (.badFormat x) = 4 ∧ errCode (.lengthMismatch k l) = 5 ∧ errCode (.badTerminator x) = 6 ∧
      errCode (.checksumMismatch x y) = 7 ∧ errCode (.deviceError x) = 8 ∧ errCode (.invalidResponseCode x) = 9 ∧
      errCode (.truncatedRecord k) = 10 ∧ eventCode (.skip x) = 1 ∧ eventCode (.badHeader raw) = 2 ∧
      eventCode .missingTerminator = 3 ∧ eventCode (.discarded e raw) = 4 ∧ eventCode (.frame raw m) = 5 ∧
      resultCode (.ok m) = 0 ∧ resultCode (.ok raw) = 0 ∧ resultCode (.err e : Result Message) = errCode e) ∧
  stCode .seekingPrefix = 0 ∧ stCode .readingHeader = 1 ∧ stCode .readingBody = 2
end

