-- ==== Sys2Proof/Laws/State.lean ====
section
/-! SUPPORT. One lemma per field of the state for each named update of the state. -/

namespace Sys2Proof.Machine

@[simp] theorem State.answer_cfg (s : State) (o : Output) : (s.answer o).cfg = s.cfg := rfl
@[simp] theorem State.answer_st (s : State) (o : Output) : (s.answer o).st = s.st := rfl
@[simp] theorem State.answer_buf (s : State) (o : Output) : (s.answer o).buf = s.buf := rfl
@[simp] theorem State.answer_n (s : State) (o : Output) : (s.answer o).n = s.n := rfl
@[simp] theorem State.answer_rem (s : State) (o : Output) : (s.answer o).rem = s.rem := rfl
@[simp] theorem State.answer_out (s : State) (o : Output) : (s.answer o).out = o := rfl
@[simp] theorem State.answer_pending (s : State) (o : Output) : (s.answer o).pending = s.pending := rfl
@[simp] theorem State.answer_answer (s : State) (o p : Output) : (s.answer o).answer p = s.answer p := rfl

@[simp] theorem State.resync_cfg (s : State) : s.resync.cfg = s.cfg := rfl
@[simp] theorem State.resync_st (s : State) : s.resync.st = .seekingPrefix := rfl
@[simp] theorem State.resync_buf (s : State) : s.resync.buf = [] := rfl
@[simp] theorem State.resync_n (s : State) : s.resync.n = 0 := rfl
@[simp] theorem State.resync_rem (s : State) : s.resync.rem = 0 := rfl
@[simp] theorem State.resync_out (s : State) : s.resync.out = s.out := rfl
@[simp] theorem State.resync_pending (s : State) : s.resync.pending = s.pending := rfl
@[simp] theorem State.resync_resync (s : State) : s.resync.resync = s.resync := rfl

@[simp] theorem State.place_cfg (s : State) (r : Request) : (s.place r).cfg = s.cfg := rfl
@[simp] theorem State.place_st (s : State) (r : Request) : (s.place r).st = s.st := rfl
@[simp] theorem State.place_buf (s : State) (r : Request) : (s.place r).buf = s.buf := rfl
@[simp] theorem State.place_n (s : State) (r : Request) : (s.place r).n = s.n := rfl
@[simp] theorem State.place_rem (s : State) (r : Request) : (s.place r).rem = s.rem := rfl
@[simp] theorem State.place_out (s : State) (r : Request) : (s.place r).out = s.out := rfl
@[simp] theorem State.place_pending (s : State) (r : Request) : (s.place r).pending = r :: s.pending.tail := rfl

/-- A placed request is the one fetched, and the rest of the list stays. -/
@[simp] theorem State.place_fetch (s : State) (r : Request) :
    (s.place r).fetch = some (r, { s with pending := s.pending.tail }) := rfl

/-- Everything `fetch` can answer. -/
theorem State.fetch_cases (s : State) :
    (s.pending = [] ∧ s.fetch = none) ∨
      ∃ r rest, s.pending = r :: rest ∧ s.fetch = some (r, { s with pending := rest }) := by
  cases h : s.pending with
  | nil => exact .inl ⟨rfl, by simp [State.fetch, h]⟩
  | cons r rest => exact .inr ⟨r, rest, rfl, by simp [State.fetch, h]⟩

/-- A pure operation always answers a next state, and it only hands out its result. -/
@[simp] theorem answerPure_eq (s : State) (o : Output) : answerPure s o = .next { s with out := o } := rfl

/-- A framer operation answers a next state exactly when no fault was met. -/
theorem finish_next (r : Except Fault (State × List Event)) (t : State) :
    finish r = .next t ↔ ∃ u evs, r = .ok (u, evs) ∧ t = u.answer (.events evs) := by
  cases r with
  | error f => simp [finish]
  | ok p => cases p with | mk u evs => simp [finish, eq_comm]

/-- A framer operation faults exactly with the fault met. -/
theorem finish_fault (r : Except Fault (State × List Event)) (f : Fault) :
    finish r = .fault f ↔ r = .error f := by
  cases r with
  | error g => simp [finish]
  | ok p => cases p; simp [finish]

/-- A framer operation is never refused. -/
theorem finish_not_refused (r : Except Fault (State × List Event)) (e : Refusal) : finish r ≠ .refused e := by
  cases r with
  | error f => simp [finish]
  | ok p => cases p; simp [finish]

end Sys2Proof.Machine
end

