-- ==== Sys2Proof/Laws/Memory.lean ====
section
/-! SUPPORT. The laws of `BUF`: read after write, the canonical form kept by every memory operation, and what the operations
give on a buffer that holds exactly the indices below `n`. -/

namespace Sys2Proof.Machine

@[simp] theorem Memory.read_nil (i : Nat) : Memory.read [] i = none := rfl

@[simp] theorem Memory.read_write_same (m : Memory) (i : Nat) (v : Byte) : (m.write i v).read i = some v := by
  induction m with
  | nil => simp [Memory.write, Memory.read]
  | cons c m ih =>
    obtain ⟨a, b⟩ := c
    simp only [Memory.write]
    split
    · simp [Memory.read]
    · split
      · simp [Memory.read]
      · rename_i h
        simp [Memory.read, Ne.symm h, ih]

theorem Memory.read_write_other (m : Memory) (i j : Nat) (v : Byte) (h : j ≠ i) :
    (m.write i v).read j = m.read j := by
  induction m with
  | nil => simp [Memory.write, Memory.read, Ne.symm h]
  | cons c m ih =>
    obtain ⟨a, b⟩ := c
    simp only [Memory.write]
    split
    · simp [Memory.read, Ne.symm h]
    · split
      · rename_i e
        subst e
        simp [Memory.read, Ne.symm h]
      · simp [Memory.read, ih]

/-- Writing at or above the lower bound keeps the cells rising. -/
theorem Memory.risingFrom_write (m : Memory) (lo i : Nat) (v : Byte) (hm : Memory.risingFrom lo m = true)
    (hi : lo ≤ i) : Memory.risingFrom lo (m.write i v) = true := by
  induction m generalizing lo with
  | nil => simp [Memory.write, Memory.risingFrom, hi]
  | cons c m ih =>
    obtain ⟨a, b⟩ := c
    simp only [Memory.risingFrom, Bool.and_eq_true, decide_eq_true_eq] at hm
    simp only [Memory.write]
    split
    · rename_i h
      simp only [Memory.risingFrom, Bool.and_eq_true, decide_eq_true_eq]
      exact ⟨hi, h, hm.2⟩
    · split
      · rename_i e
        subst e
        simpa only [Memory.risingFrom, Bool.and_eq_true, decide_eq_true_eq] using hm
      · simp only [Memory.risingFrom, Bool.and_eq_true, decide_eq_true_eq]
        exact ⟨hm.1, ih (a + 1) hm.2 (by omega)⟩

/-- Every cell of a written memory is the written one or an old one. -/
theorem Memory.mem_write (m : Memory) (i : Nat) (v : Byte) (c : Host.Cell) (h : c ∈ m.write i v) :
    c = (i, v) ∨ c ∈ m := by
  induction m with
  | nil => simpa [Memory.write] using h
  | cons d m ih =>
    obtain ⟨a, b⟩ := d
    simp only [Memory.write] at h
    split at h
    · simpa using h
    · split at h
      · rcases List.mem_cons.mp h with e | e
        · exact .inl e
        · exact .inr (List.mem_cons_of_mem _ e)
      · rcases List.mem_cons.mp h with e | e
        · exact .inr (by simp [e])
        · exact (ih e).imp id (List.mem_cons_of_mem _)

/-- A write inside `BUF` keeps the canonical form. -/
theorem Memory.wf_write (m : Memory) (i : Nat) (v : Byte) (hm : m.wf = true) (hi : i < bufCap) :
    (m.write i v).wf = true := by
  simp only [Memory.wf, Bool.and_eq_true, List.all_eq_true, decide_eq_true_eq] at hm ⊢
  refine ⟨Memory.risingFrom_write m 0 i v hm.1 (Nat.zero_le i), fun c hc => ?_⟩
  rcases Memory.mem_write m i v c hc with e | e
  · simpa [e] using hi
  · exact hm.2 c e

/-- The reset memory has the canonical form. -/
theorem Memory.wf_reset : (State.reset.buf).wf = true := by decide

/-- The append keeps the canonical form, in any state. -/
theorem State.append_wf (s t : State) (x : Byte) (hs : s.buf.wf = true) (h : s.append x = .ok t) :
    t.buf.wf = true := by
  unfold State.append at h
  split at h
  · cases h
    exact Memory.wf_write _ _ _ hs ‹_›
  · cases h

/-- Clearing gives the canonical form. -/
theorem State.resync_wf (s : State) : s.resync.buf.wf = true := rfl

/-! A buffer that holds exactly the indices below `n` (R33). -/

/-- Where the cells are those below `k`, a write at `k` appends. -/
theorem Memory.write_end (m : Memory) (lo k : Nat) (v : Byte) (h : m.map Prod.fst = List.range' lo k) :
    m.write (lo + k) v = m ++ [(lo + k, v)] := by
  induction m generalizing lo k with
  | nil => rfl
  | cons c m ih =>
    obtain ⟨a, b⟩ := c
    cases k with
    | zero => simp at h
    | succ k =>
      simp only [List.map_cons, List.range'_succ, List.cons.injEq] at h
      obtain ⟨rfl, h⟩ := h
      have hlt : ¬ a + (k + 1) < a := by omega
      have hne : ¬ a + (k + 1) = a := by omega
      have := ih (a + 1) k h
      rw [show a + 1 + k = a + (k + 1) by omega] at this
      simp [Memory.write, this]

/-- Reading where no cell of the list begins the range. -/
theorem Memory.readRange_skip (c : Host.Cell) (m : Memory) (i k : Nat) (h : c.1 < i) :
    Memory.readRange (c :: m) i k = Memory.readRange m i k := by
  induction k generalizing i with
  | zero => rfl
  | succ k ih =>
    obtain ⟨a, b⟩ := c
    have hne : ¬ a = i := by simp only at h; omega
    simp [Memory.readRange, Memory.read, hne, ih (i + 1) (by simp only at h ⊢; omega)]

/-- Reading the first `j` bytes of a buffer that holds the indices `lo..lo+k-1`. -/
theorem Memory.readRange_held (m : Memory) (lo k j : Nat) (h : m.map Prod.fst = List.range' lo k) (hj : j ≤ k) :
    Memory.readRange m lo j = some ((m.map Prod.snd).take j) := by
  induction m generalizing lo k j with
  | nil =>
    have : k = 0 := by simpa using (congrArg List.length h).symm
    have : j = 0 := by omega
    subst this
    rfl
  | cons c m ih =>
    obtain ⟨a, b⟩ := c
    cases k with
    | zero => simp at h
    | succ k =>
      simp only [List.map_cons, List.range'_succ, List.cons.injEq] at h
      obtain ⟨rfl, h⟩ := h
      cases j with
      | zero => rfl
      | succ j =>
        have := ih (a + 1) k j h (by omega)
        simp [Memory.readRange, Memory.read, Memory.readRange_skip, this]

/-- `BUF[0..k)` where the indices below `n` are held. -/
theorem State.bufPart_held (s : State) (k : Nat) (h : s.buf.map Prod.fst = List.range s.n.toNat) (hk : k ≤ s.n.toNat) :
    s.bufPart k = .ok ((s.buf.map Prod.snd).take k) := by
  rw [List.range_eq_range'] at h
  simp [State.bufPart, Memory.readRange_held _ 0 _ k h hk]

/-- The append where the indices below `n` are held and `n` is below the capacity: it always succeeds. -/
theorem State.append_held (s : State) (x : Byte) (h : s.buf.map Prod.fst = List.range s.n.toNat)
    (hn : s.n.toNat < bufCap) :
    s.append x = .ok { s with buf := s.buf ++ [(s.n.toNat, x)], n := s.n + 1 } := by
  rw [List.range_eq_range'] at h
  have hw := Memory.write_end s.buf 0 s.n.toNat x h
  rw [Nat.zero_add] at hw
  simp [State.append, hn, hw]

/-- Everything an append can answer, in any state. -/
theorem State.append_cases (s : State) (x : Byte) :
    (s.n.toNat < bufCap ∧ s.append x = .ok { s with buf := s.buf.write s.n.toNat x, n := s.n + 1 }) ∨
      (bufCap ≤ s.n.toNat ∧ s.append x = .error .bufOverflow) := by
  unfold State.append
  split
  · exact .inl ⟨‹_›, rfl⟩
  · exact .inr ⟨by omega, rfl⟩

end Sys2Proof.Machine
end

