-- ==== Sys2Proof/Laws/Operands.lean ====
section
/-! SUPPORT. The operand forms: bytes and slices of concatenations, and the 16-bit length field's two bytes (R150). -/

namespace Sys2Proof.Machine

@[simp] theorem byteAt_cons_zero (b : Byte) (s : Bytes) : byteAt (b :: s) 0 = b := rfl

@[simp] theorem byteAt_cons_succ (b : Byte) (s : Bytes) (i : Nat) : byteAt (b :: s) (i + 1) = byteAt s i := rfl

theorem byteAt_append_left (s t : Bytes) (i : Nat) (h : i < s.length) : byteAt (s ++ t) i = byteAt s i := by
  simp [byteAt, List.getD, List.getElem?_append_left h]

theorem byteAt_append_right (s t : Bytes) (i : Nat) (h : s.length ≤ i) : byteAt (s ++ t) i = byteAt t (i - s.length) := by
  simp [byteAt, List.getD, List.getElem?_append_right h]

/-- A prefix slice of a concatenation. -/
theorem sliceOf_append_left (s t : Bytes) : sliceOf (s ++ t) 0 s.length = s := by
  simp [sliceOf]

/-- The middle of a concatenation. -/
theorem sliceOf_append_mid (s t u : Bytes) : sliceOf (s ++ t ++ u) s.length (s.length + t.length) = t := by
  rw [show s.length + t.length = (s ++ t).length by simp]
  simp [sliceOf, -List.append_assoc, -List.length_append]

@[simp] theorem byteSum_nil : byteSum [] = 0 := rfl

@[simp] theorem byteSum_cons (b : Byte) (s : Bytes) : byteSum (b :: s) = b.toNat + byteSum s := rfl

@[simp] theorem byteSum_append (s t : Bytes) : byteSum (s ++ t) = byteSum s + byteSum t := by
  induction s with
  | nil => simp
  | cons b s ih => simp only [List.cons_append, byteSum_cons, ih]; omega

/-- `u16be` reads back what `hi8` and `lo8` wrote (R150). -/
theorem u16be_hi8_lo8 (v : Nat) (h : v < 65536) : u16be (hi8 v) (lo8 v) = v := by
  simp only [u16be, hi8, lo8, BitVec.toNat_ofNat]
  omega

theorem u16be_lt (h l : Byte) : u16be h l < 65536 := by
  have := h.isLt
  have := l.isLt
  simp only [u16be]
  omega

/-- `hi8` and `lo8` give back the bytes `u16be` read (R150). -/
theorem hi8_u16be (h l : Byte) : hi8 (u16be h l) = h := by
  apply BitVec.eq_of_toNat_eq
  have := h.isLt
  have := l.isLt
  simp only [u16be, hi8, BitVec.toNat_ofNat]
  omega

theorem lo8_u16be (h l : Byte) : lo8 (u16be h l) = l := by
  apply BitVec.eq_of_toNat_eq
  have := l.isLt
  simp only [u16be, lo8, BitVec.toNat_ofNat]
  omega

end Sys2Proof.Machine
end

