-- ==== Sys2Proof/Laws/Framer.lean ====
section
/-! SUPPORT. What one framer step can do, said once, in any state: `feed_cases`. -/

namespace Sys2Proof.Machine

/-- The tail of a framer step that completes a candidate, or the fault of an unwritten byte. -/
theorem complete_cases (s t : State) (evs : List Event) (h : complete s = .ok (t, evs)) :
    ∃ raw, s.bufPart s.n.toNat = .ok raw ∧ t = s.resync ∧
      evs = terminatorWarning s.cfg raw ++ [candidateEvent s.cfg raw] := by
  unfold complete at h
  split at h
  · cases h
  · cases h
    exact ⟨_, ‹_›, rfl, rfl⟩

/-- The four ends of a framer step: the byte is skipped; or it is appended and the framer goes on reading; or the header held is bad; or a
candidate is complete. -/
inductive FeedEnd (x : Byte) (s t : State) (evs : List Event) : Prop where
  | skip (hst : s.st = .seekingPrefix) (hx : x ≠ s.cfg.prefixByte) (ht : t = s) (he : evs = [.skip x])
  | keep (hx : s.st = .seekingPrefix → x = s.cfg.prefixByte) (st' : St) (rem' : BitVec 16) (hst' : st' ≠ .seekingPrefix)
      (ht : t = { s with buf := s.buf.write s.n.toNat x, n := s.n + 1, st := st', rem := rem' }) (he : evs = [])
  | badHeader (hst : s.st = .readingHeader) (h : Bytes) (ht : t = s.resync) (he : evs = [.badHeader h])
  | complete (hst : s.st ≠ .seekingPrefix) (raw : Bytes) (ht : t = s.resync)
      (he : evs = terminatorWarning s.cfg raw ++ [candidateEvent s.cfg raw])

/-- Every framer step that meets no fault ends in one of the four ways, and unless the byte is skipped there was room for
it. -/
theorem feed_cases (x : Byte) (s t : State) (evs : List Event) (h : feed x s = .ok (t, evs)) :
    FeedEnd x s t evs ∧ ((s.st = .seekingPrefix → x = s.cfg.prefixByte) → s.n.toNat < bufCap) := by
  unfold feed at h
  split at h
  · rename_i hst
    unfold feedSeeking at h
    split at h
    · rename_i hx
      cases h
      exact ⟨.skip hst hx rfl rfl, fun hp => absurd (hp hst) hx⟩
    · rename_i hx
      rcases s.append_cases x with ⟨hn, ha⟩ | ⟨hn, ha⟩
      · simp only [ha, Except.ok.injEq, Prod.mk.injEq] at h
        obtain ⟨rfl, rfl⟩ := h
        exact ⟨.keep (fun _ => not_not.mp hx) .readingHeader s.rem (by decide) rfl rfl, fun _ => hn⟩
      · simp [ha] at h
  · rename_i hst
    have hns : s.st ≠ .seekingPrefix := by simp [hst]
    unfold feedHeader at h
    rcases s.append_cases x with ⟨hn, ha⟩ | ⟨hn, ha⟩
    · refine ⟨?_, fun _ => hn⟩
      simp only [ha] at h
      split at h
      · cases h
        exact .keep (fun e => absurd e hns) .readingHeader s.rem (by decide) (by simp [← hst]) rfl
      · unfold checkHeader at h
        split at h
        · cases h
        · split at h
          · cases h
            exact .badHeader hst _ rfl rfl
          · dsimp only at h
            split at h
            · obtain ⟨raw, -, rfl, rfl⟩ := complete_cases _ _ _ h
              exact .complete hns raw rfl rfl
            · cases h
              exact .keep (fun e => absurd e hns) .readingBody _ (by decide) rfl rfl
    · simp [ha] at h
  · rename_i hst
    have hns : s.st ≠ .seekingPrefix := by simp [hst]
    unfold feedBody at h
    split at h
    · cases h
    · rcases s.append_cases x with ⟨hn, ha⟩ | ⟨hn, ha⟩
      · refine ⟨?_, fun _ => hn⟩
        simp only [ha] at h
        split at h
        · obtain ⟨raw, -, rfl, rfl⟩ := complete_cases _ _ _ h
          exact .complete hns raw rfl rfl
        · cases h
          exact .keep (fun e => absurd e hns) .readingBody (s.rem - 1) (by decide) (by simp [← hst]) rfl
      · simp [ha] at h

/-- A framer step never writes the configuration, the results or the requests. -/
theorem feed_untouched (x : Byte) (s t : State) (evs : List Event) (h : feed x s = .ok (t, evs)) :
    t.cfg = s.cfg ∧ t.out = s.out ∧ t.pending = s.pending := by
  cases (feed_cases x s t evs h).1 with
  | skip _ _ ht _ => subst ht; exact ⟨rfl, rfl, rfl⟩
  | keep _ _ _ _ ht _ => subst ht; exact ⟨rfl, rfl, rfl⟩
  | badHeader _ _ ht _ => subst ht; exact ⟨rfl, rfl, rfl⟩
  | complete _ _ ht _ => subst ht; exact ⟨rfl, rfl, rfl⟩

/-- A run of bytes, taken apart at its first byte. -/
theorem feedAll_cons (x : Byte) (xs : Bytes) (s u : State) (evs : List Event) :
    feedAll (x :: xs) s = .ok (u, evs) ↔
      ∃ t ev more, feed x s = .ok (t, ev) ∧ feedAll xs t = .ok (u, more) ∧ evs = ev ++ more := by
  rw [show feedAll (x :: xs) s = match feed x s with
    | .error f => .error f
    | .ok (t, evs) =>
      match feedAll xs t with
      | .error f => .error f
      | .ok (u, more) => .ok (u, evs ++ more) from rfl]
  cases hf : feed x s with
  | error f => simp
  | ok p =>
    obtain ⟨t, ev⟩ := p
    dsimp only
    cases hr : feedAll xs t with
    | error f =>
      constructor
      · intro h; cases h
      · rintro ⟨t', ev', more', h1, h2, -⟩
        cases h1
        rw [hr] at h2
        cases h2
    | ok q =>
      obtain ⟨w, more⟩ := q
      constructor
      · intro h
        cases h
        exact ⟨t, ev, more, rfl, hr, rfl⟩
      · rintro ⟨t', ev', more', h1, h2, rfl⟩
        cases h1
        rw [hr] at h2
        cases h2
        rfl

/-- The empty run. -/
@[simp] theorem feedAll_nil (s : State) : feedAll [] s = .ok (s, []) := rfl

end Sys2Proof.Machine
end

