-- ==== Sys2Proof/Laws/PerInstr.lean ====
section
/-! SUPPORT. One lemma per constructor of `Instr`: its request meets the match and mask of its row of spec/opcode_table.json.
The match and mask bytes are transcribed from the table here, apart from the encoder. -/

namespace Sys2Proof.Laws.TableWord

/-- A row of the table: its format, and byte by byte its mask and its match (R120). -/
structure Row where
  format : Format
  mask : Bytes
  bits : Bytes
  deriving DecidableEq, Repr

/-- An operation row: 4 bits of `opsel`. -/
def opRow (k : Byte) : Row := ⟨.op, [0x0F], [k]⟩

/-- An ACK row. -/
def ackRow (mask k : Byte) : Row := ⟨.ack, [mask], [k]⟩

/-- The table's rows. -/
def row : Instr → Row
  | .sfReset => opRow 0x0
  | .sfFeed _ => opRow 0x1
  | .sfIdle => opRow 0x2
  | .checksum _ => opRow 0x3
  | .encode _ => opRow 0x4
  | .decode _ _ => opRow 0x5
  | .ackclass _ => opRow 0x6
  | .mdecode _ => opRow 0x7
  | .tempsplit _ => opRow 0x8
  | .ackOk => ackRow 0xFF 0x00
  | .ackDeverr01 => ackRow 0xFF 0x01
  | .ackDeverr02 => ackRow 0xFF 0x02
  | .ackDeverr03 => ackRow 0xFF 0x03
  | .ackDeverr04 => ackRow 0xFF 0x04
  | .ackDeverr05 => ackRow 0xFF 0x05
  | .ackDeverr06 => ackRow 0xFF 0x06
  | .ackUnsolicited0A => ackRow 0xFF 0x0A
  | .ackUnsolicited0B => ackRow 0xFF 0x0B
  | .ackUnsolicited0C => ackRow 0xFF 0x0C
  | .ackUnsolicited0D => ackRow 0xFF 0x0D
  | .ackUnsolicited0E => ackRow 0xFF 0x0E
  | .ackUnsolicited0F => ackRow 0xFF 0x0F
  | .ackInvalid07 => ackRow 0xFF 0x07
  | .ackInvalid08 _ => ackRow 0xFE 0x08
  | .ackInvalid10 _ => ackRow 0xF0 0x10
  | .ackInvalid20 _ => ackRow 0xE0 0x20
  | .ackInvalid40 _ => ackRow 0xC0 0x40
  | .ackInvalid80 _ => ackRow 0x80 0x80
  | .wireFrameEmpty _ _ _ _ _ _ _ => ⟨.frame, [0, 0, 0xFF, 0xFF, 0, 0, 0, 0, 0], [0, 0, 0x00, 0x05, 0, 0, 0, 0, 0]⟩
  | .wireHeader _ _ _ _ => ⟨.header, [0, 0, 0, 0], [0, 0, 0, 0]⟩
  | .wireRecord _ _ _ _ _ _ _ => ⟨.record, [0, 0, 0, 0, 0, 0, 0], [0, 0, 0, 0, 0, 0, 0]⟩

/-- The request of a well-formed instruction is in its row's format, and its first bytes under the row's mask are the row's match. -/
def Statement (i : Instr) : Prop :=
  wellFormed i = true →
    (encode i).format = (row i).format ∧ List.zipWith (fun b m => b &&& m) (encode i).bytes (row i).mask = (row i).bits


theorem sfReset : Statement .sfReset := fun _ => ⟨rfl, rfl⟩

theorem sfFeed (x : Byte) : Statement (.sfFeed x) := fun _ => ⟨rfl, rfl⟩

theorem sfIdle : Statement .sfIdle := fun _ => ⟨rfl, rfl⟩

theorem checksum (s : Bytes) : Statement (.checksum s) := fun _ => ⟨rfl, by simp [Sys2Proof.encode, row, opRow]⟩

theorem encode (m : Message) : Statement (.encode m) := fun _ => ⟨rfl, rfl⟩

theorem decode (b : Bytes) (chk : Bool) : Statement (.decode b chk) := fun _ => ⟨rfl, rfl⟩

theorem ackclass (code : Byte) : Statement (.ackclass code) := fun _ => ⟨rfl, rfl⟩

theorem mdecode (p : Bytes) : Statement (.mdecode p) := fun _ => ⟨rfl, by simp [Sys2Proof.encode, row, opRow]⟩

theorem tempsplit (v : BitVec 32) : Statement (.tempsplit v) := fun _ => ⟨rfl, rfl⟩

theorem ackOk : Statement .ackOk := fun _ => ⟨rfl, rfl⟩

theorem ackDeverr01 : Statement .ackDeverr01 := fun _ => ⟨rfl, rfl⟩

theorem ackDeverr02 : Statement .ackDeverr02 := fun _ => ⟨rfl, rfl⟩

theorem ackDeverr03 : Statement .ackDeverr03 := fun _ => ⟨rfl, rfl⟩

theorem ackDeverr04 : Statement .ackDeverr04 := fun _ => ⟨rfl, rfl⟩

theorem ackDeverr05 : Statement .ackDeverr05 := fun _ => ⟨rfl, rfl⟩

theorem ackDeverr06 : Statement .ackDeverr06 := fun _ => ⟨rfl, rfl⟩

theorem ackUnsolicited0A : Statement .ackUnsolicited0A := fun _ => ⟨rfl, rfl⟩

theorem ackUnsolicited0B : Statement .ackUnsolicited0B := fun _ => ⟨rfl, rfl⟩

theorem ackUnsolicited0C : Statement .ackUnsolicited0C := fun _ => ⟨rfl, rfl⟩

theorem ackUnsolicited0D : Statement .ackUnsolicited0D := fun _ => ⟨rfl, rfl⟩

theorem ackUnsolicited0E : Statement .ackUnsolicited0E := fun _ => ⟨rfl, rfl⟩

theorem ackUnsolicited0F : Statement .ackUnsolicited0F := fun _ => ⟨rfl, rfl⟩

theorem ackInvalid07 : Statement .ackInvalid07 := fun _ => ⟨rfl, rfl⟩

theorem ackInvalid08 (code : Byte) : Statement (.ackInvalid08 code) := fun h => ⟨rfl, by simpa [wellFormed, Sys2Proof.encode, row, ackRow] using h⟩

theorem ackInvalid10 (code : Byte) : Statement (.ackInvalid10 code) := fun h => ⟨rfl, by simpa [wellFormed, Sys2Proof.encode, row, ackRow] using h⟩

theorem ackInvalid20 (code : Byte) : Statement (.ackInvalid20 code) := fun h => ⟨rfl, by simpa [wellFormed, Sys2Proof.encode, row, ackRow] using h⟩

theorem ackInvalid40 (code : Byte) : Statement (.ackInvalid40 code) := fun h => ⟨rfl, by simpa [wellFormed, Sys2Proof.encode, row, ackRow] using h⟩

theorem ackInvalid80 (code : Byte) : Statement (.ackInvalid80 code) := fun h => ⟨rfl, by simpa [wellFormed, Sys2Proof.encode, row, ackRow] using h⟩

theorem wireFrameEmpty (pfx fmt addr sig code chksum term : Byte) :
    Statement (.wireFrameEmpty pfx fmt addr sig code chksum term) := fun _ => ⟨rfl, by simp [Sys2Proof.encode, row]⟩

theorem wireHeader (pfx fmt lenHi lenLo : Byte) : Statement (.wireHeader pfx fmt lenHi lenLo) :=
  fun _ => ⟨rfl, by simp [Sys2Proof.encode, row]⟩

theorem wireRecord (channel power state t1 t0 t3 t2 : Byte) :
    Statement (.wireRecord channel power state t1 t0 t3 t2) := fun _ => ⟨rfl, by simp [Sys2Proof.encode, row]⟩

end Sys2Proof.Laws.TableWord
end

