-- ==== Sys2Proof/Tests/Slice0.lean ====
section
/-! SUPPORT. Tests on fixed values and, for every obligation with hypotheses, a witness that meets them. Expected values are taken
from spec/95_test_vectors.md (its section in the comment) or worked out by hand from the rule named; none is the model's own answer. -/

namespace Sys2Proof.Tests

open Sys2Proof Sys2Proof.Machine

/-! Helpers -/

/-- `G` of 95_test_vectors.md. -/
def frameG : Bytes := [0x2A, 0x61, 0x00, 0x07, 0xFE, 0x02, 0x00, 0xAA, 0xBB, 0x08, 0x0D]
/-- `E0` of 95_test_vectors.md. -/
def frameE : Bytes := [0x2A, 0x61, 0x00, 0x05, 0xFE, 0x02, 0x00, 0x6F, 0x0D]
/-- The Message of `G`. -/
def messageG : Message := { signature := 0x02, instruction := 0x00, address := 0xFE, payload := [0xAA, 0xBB] }
/-- The Message of `E0`. -/
def messageE : Message := { signature := 0x02, instruction := 0x00, address := 0xFE, payload := [] }

/-- A framer with default `CFG` in `(st, |held|, rem)` that holds `held`. -/
def framer (st : St) (held : Bytes) (rem : BitVec 16) : State :=
  { State.reset with st := st, buf := (List.range held.length).zip held, n := BitVec.ofNat 17 held.length, rem := rem }

/-- The host's next requests placed. -/
def issuing (s : State) (rs : List Request) : State := { s with pending := rs }

/-- The next state of an instruction, if it answers one. -/
def after (i : Instr) (s : State) : Option State :=
  match exec i s with
  | .next t => some t
  | .fault _ => none
  | .refused _ => none

/-- The result of an instruction from reset. -/
def result (i : Instr) : Option Output := (after i State.reset).map State.out

/-- The next state of a step, if it answers one. -/
def stepped (s : State) : Option State :=
  match step s with
  | .next t => some t
  | .fault _ => none
  | .refused _ => none

/-- The registers a framer instruction leaves and its events. -/
def leaves (i : Instr) (s : State) : Option (St × Bytes × Nat × Output) :=
  (after i s).map fun t => (t.st, t.heldBytes, t.rem.toNat, t.out)

/-- The word of a one-byte code decodes to its row, which answers the class. -/
def ackRowTest (code : Byte) (i : Instr) (c : AckClass) : Bool :=
  decide (decode ⟨.ack, [code]⟩ = .ok i) && decide (result i = some (.ackClass c))

def seek : State := State.reset
def header1 : State := framer .readingHeader [0x2A] 0
def header3 : State := framer .readingHeader [0x2A, 0x61, 0x00] 0
def headerBad : State := framer .readingHeader [0x2A, 0x62, 0x2A] 0
def body2 : State := framer .readingBody (frameG.take 9) 2
def body1 : State := framer .readingBody (frameG.take 10) 1

/-! Well-formedness: a term outside each checked row is refused, its neighbours inside are not -/

theorem test_wf_invalid08 :
    wellFormed (.ackInvalid08 0x07) = false ∧ wellFormed (.ackInvalid08 0x0A) = false ∧
      wellFormed (.ackInvalid08 0x08) = true ∧ wellFormed (.ackInvalid08 0x09) = true := by decide

theorem test_wf_invalid10 :
    wellFormed (.ackInvalid10 0x0F) = false ∧ wellFormed (.ackInvalid10 0x20) = false ∧
      wellFormed (.ackInvalid10 0x10) = true ∧ wellFormed (.ackInvalid10 0x1F) = true := by decide

theorem test_wf_invalid20 :
    wellFormed (.ackInvalid20 0x1F) = false ∧ wellFormed (.ackInvalid20 0x40) = false ∧
      wellFormed (.ackInvalid20 0x20) = true ∧ wellFormed (.ackInvalid20 0x3F) = true := by decide

theorem test_wf_invalid40 :
    wellFormed (.ackInvalid40 0x3F) = false ∧ wellFormed (.ackInvalid40 0x80) = false ∧
      wellFormed (.ackInvalid40 0x40) = true ∧ wellFormed (.ackInvalid40 0x7F) = true := by decide

theorem test_wf_invalid80 :
    wellFormed (.ackInvalid80 0x7F) = false ∧ wellFormed (.ackInvalid80 0x00) = false ∧
      wellFormed (.ackInvalid80 0x80) = true ∧ wellFormed (.ackInvalid80 0xFF) = true := by decide

/-! Decoding: words written out from R103, R92, R94, R100 -/

theorem test_decode_sfReset :
    decode ⟨.op, [0x00]⟩ = .ok (.sfReset) := by decide

theorem test_decode_sfFeed :
    decode ⟨.op, [0x01, 0x0D]⟩ = .ok (.sfFeed 0x0D) := by decide

theorem test_decode_sfIdle :
    decode ⟨.op, [0x02]⟩ = .ok (.sfIdle) := by decide

theorem test_decode_checksum :
    decode ⟨.op, [0x03, 0x01, 0x02, 0x03]⟩ = .ok (.checksum [0x01, 0x02, 0x03]) := by decide

theorem test_decode_encode :
    decode ⟨.op, [0x04, 0x11, 0x51, 0x31, 0x01, 0x02, 0x03]⟩ = .ok (.encode { signature := 0x11, instruction := 0x51, address := 0x31, payload := [0x01, 0x02, 0x03] }) := by decide

theorem test_decode_decode :
    decode ⟨.op, [0x05, 0x01, 0xAA, 0xBB]⟩ = .ok (.decode [0xAA, 0xBB] true) ∧ decode ⟨.op, [0x05, 0x00]⟩ = .ok (.decode [] false) := by decide

theorem test_decode_ackclass :
    decode ⟨.op, [0x06, 0x61]⟩ = .ok (.ackclass 0x61) := by decide

theorem test_decode_mdecode :
    decode ⟨.op, [0x07, 0x01, 0x00]⟩ = .ok (.mdecode [0x01, 0x00]) := by decide

theorem test_decode_tempsplit :
    decode ⟨.op, [0x08, 0xFF, 0xFF, 0xFB, 0x2E]⟩ = .ok (.tempsplit (BitVec.ofInt 32 (-1234))) := by decide

theorem test_decode_frame :
    decode ⟨.frame, [0x2A, 0x61, 0x00, 0x05, 0xFE, 0x02, 0x03, 0x6C, 0x0D]⟩ = .ok (.wireFrameEmpty 0x2A 0x61 0xFE 0x02 0x03 0x6C 0x0D) := by decide

theorem test_decode_header :
    decode ⟨.header, [0x2A, 0x61, 0xFF, 0xFE]⟩ = .ok (.wireHeader 0x2A 0x61 0xFF 0xFE) := by decide

theorem test_decode_record :
    decode ⟨.record, [0x01, 0x02, 0x03, 0x04, 0x05, 0x06, 0x07]⟩ = .ok (.wireRecord 0x01 0x02 0x03 0x04 0x05 0x06 0x07) := by decide

/-- R106 (f), R92; log 2. -/
theorem test_decode_rejects :
    decode ⟨.op, [0x0F]⟩ = .reject (.unassignedOpsel 0x0F) ∧ decode ⟨.op, [0x01]⟩ = .reject (.operandBytes 0x01) ∧
      decode ⟨.op, [0x00, 0x00]⟩ = .reject (.operandBytes 0x00) ∧ decode ⟨.op, [0x05, 0x02]⟩ = .reject (.operandBytes 0x05) ∧
      decode ⟨.frame, [0x2A, 0x61, 0x00, 0x06, 0xFE, 0x02, 0x03, 0x6C, 0x0D]⟩ = .reject (.wireBytes .frame) := by decide

/-- Table words: the first byte in bits 7..0 (log 3). -/
theorem test_tableWords :
    decodeTableWord 8 0x01 = some (.sfFeed 0x00) ∧ decodeTableWord 8 0x0D = some .ackUnsolicited0D ∧
      decodeTableWord 72 0x05000000 = some (.wireFrameEmpty 0 0 0 0 0 0 0) ∧ decodeTableWord 56 0x01 = some (.wireRecord 0x01 0 0 0 0 0 0) ∧
      decodeTableWord 32 0x6100002A = some (.wireHeader 0x2A 0x00 0x00 0x61) := by decide

/-- The first step after reset runs the placed word (log 1, R187). -/
theorem test_step_runs_word :
    stepped (State.reset.withFetchWord 8 0x02) = some { State.reset with out := .events [] } := by decide

/-- Nothing issued (log 1). -/
theorem test_step_without_request :
    stepped { State.reset with out := .events [.skip 0x00] } = some State.reset := by decide

/-! Operations (V1 to V8, S1 to S7, P3, P4) -/

/-- V6, first row. -/
theorem test_sfReset :
    leaves .sfReset body1 = some (.seekingPrefix, [], 0, .events []) := by decide

/-- V6. -/
theorem test_sfFeed_candidate :
    leaves (.sfFeed 0x0D) body1 = some (.seekingPrefix, [], 0, .events [.frame frameG messageG]) ∧
      leaves (.sfFeed 0x61) headerBad = some (.seekingPrefix, [], 0, .events [.badHeader [0x2A, 0x62, 0x2A, 0x61]]) := by decide

/-- V6. -/
theorem test_sfFeed_header :
    leaves (.sfFeed 0xFF) (framer .readingHeader [0x2A, 0x61, 0xFF] 0) = some (.readingBody, [0x2A, 0x61, 0xFF, 0xFF], 65535, .events []) ∧
      leaves (.sfFeed 0x00) header3 =
        some (.seekingPrefix, [], 0, .events [.missingTerminator, .discarded (.frameTooShort 4) [0x2A, 0x61, 0x00, 0x00]]) := by decide

/-- V6. -/
theorem test_sfIdle :
    leaves .sfIdle (framer .readingHeader [0x2A, 0x2A] 0) = some (.readingHeader, [0x2A, 0x2A], 0, .events []) := by decide

/-- V1. -/
theorem test_checksum :
    result (.checksum []) = some (.checksum 0xFF) ∧ result (.checksum [0x01, 0x02, 0x03]) = some (.checksum 0xF9) ∧
      result (.checksum [0xFF, 0xFF]) = some (.checksum 0x01) := by decide

/-- V2. -/
theorem test_encode :
    result (.encode { signature := 0x05, instruction := 0x0A, address := 0x01, payload := [0x2A, 0x61, 0x0D, 0x2A] }) =
      some (.encoded (.ok [0x2A, 0x61, 0x00, 0x09, 0x01, 0x05, 0x0A, 0x2A, 0x61, 0x0D, 0x2A, 0x99, 0x0D])) := by decide

/-- V3. -/
theorem test_decode_priority :
    result (.decode [0x2A, 0x00, 0x00, 0x00, 0x00, 0x00, 0x00, 0x00, 0x00] false) = some (.decoded (.err (.badFormat 0x00))) ∧
      result (.decode [0x2A, 0x61, 0x00, 0x05, 0x00, 0x00, 0x00, 0x00, 0x00] false) = some (.decoded (.err (.badTerminator 0x00))) ∧
      result (.decode [0x2A, 0x61, 0x00, 0x05, 0x00, 0x00, 0x07, 0x00, 0x0D] true) = some (.decoded (.err (.checksumMismatch 0x68 0x00))) ∧
      result (.decode [0x2A, 0x61, 0x00, 0x03, 0x10, 0x61, 0x0D] false) = some (.decoded (.err (.lengthMismatch 3 7))) := by decide

/-- V4, S7. -/
theorem test_decode_code :
    result (.decode [0x2A, 0x61, 0x00, 0x05, 0xFE, 0x02, 0x03, 0x6C, 0x0D] true) = some (.decoded (.err (.deviceError 0x03))) ∧
      result (.decode [0x2A, 0x61, 0x00, 0x05, 0xFE, 0x02, 0x07, 0x68, 0x0D] true) = some (.decoded (.err (.invalidResponseCode 0x07))) ∧
      result (.decode [0x2A, 0x61, 0x00, 0x05, 0xFE, 0x02, 0x0F, 0x60, 0x0D] true) =
        some (.decoded (.ok { messageE with instruction := 0x0F })) ∧
      result (.decode [0x2A, 0x61, 0x00, 0x05, 0xFE, 0x02, 0xFF, 0x70, 0x0D] false) = some (.decoded (.ok { messageE with instruction := 0xFF })) := by decide

/-- V5. -/
theorem test_ackclass :
    result (.ackclass 0x06) = some (.ackClass (.deviceError .noData)) ∧ result (.ackclass 0x07) = some (.ackClass .invalid) ∧
      result (.ackclass 0x0A) = some (.ackClass .unsolicited) ∧ result (.ackclass 0x10) = some (.ackClass .invalid) := by decide

/-- V7. -/
theorem test_mdecode :
    result (.mdecode [0x01, 0x00, 0x00, 0x09, 0x29, 0x00, 0x00, 0x02, 0x00, 0x01, 0xFB, 0x2E, 0xFF, 0xFF]) =
      some (.points (.ok [⟨0x01, 0x00, 0x00, BitVec.ofInt 32 2345⟩, ⟨0x02, 0x00, 0x01, BitVec.ofInt 32 (-1234)⟩])) := by decide

/-- V7. -/
theorem test_mdecode_truncated :
    result (.mdecode [0x01, 0x00, 0x00, 0x09, 0x29, 0x00, 0x00, 0x02, 0x00, 0x01, 0xFB, 0x2E, 0xFF]) = some (.points (.err (.truncatedRecord 13))) ∧ result (.mdecode []) = some (.points (.ok [])) := by decide

/-- V8. -/
theorem test_tempsplit :
    result (.tempsplit (BitVec.ofInt 32 (-50))) = some (.split ⟨true, 0, 50⟩) ∧
      result (.tempsplit (BitVec.ofInt 32 (-2147483648))) = some (.split ⟨true, 21474836, 48⟩) := by decide

/-- V8. -/
theorem test_tempsplit_rendering :
    renderTemp ⟨true, 0, 1⟩ = "-0.01" ∧ renderTemp ⟨false, 256, 0⟩ = "256.00" := by decide

theorem test_ackOk :
    ackRowTest 0x00 .ackOk .ok = true := by decide

theorem test_ackDeverr01 :
    ackRowTest 0x01 .ackDeverr01 (.deviceError .unspecified) = true := by decide

theorem test_ackDeverr02 :
    ackRowTest 0x02 .ackDeverr02 (.deviceError .unrecognizedInstruction) = true := by decide

theorem test_ackDeverr03 :
    ackRowTest 0x03 .ackDeverr03 (.deviceError .malformedData) = true := by decide

theorem test_ackDeverr04 :
    ackRowTest 0x04 .ackDeverr04 (.deviceError .notPermitted) = true := by decide

theorem test_ackDeverr05 :
    ackRowTest 0x05 .ackDeverr05 (.deviceError .deviceFault) = true := by decide

theorem test_ackDeverr06 :
    ackRowTest 0x06 .ackDeverr06 (.deviceError .noData) = true := by decide

theorem test_ackUnsolicited0A :
    ackRowTest 0x0A .ackUnsolicited0A .unsolicited = true := by decide

theorem test_ackUnsolicited0B :
    ackRowTest 0x0B .ackUnsolicited0B .unsolicited = true := by decide

theorem test_ackUnsolicited0C :
    ackRowTest 0x0C .ackUnsolicited0C .unsolicited = true := by decide

theorem test_ackUnsolicited0D :
    ackRowTest 0x0D .ackUnsolicited0D .unsolicited = true := by decide

theorem test_ackUnsolicited0E :
    ackRowTest 0x0E .ackUnsolicited0E .unsolicited = true := by decide

theorem test_ackUnsolicited0F :
    ackRowTest 0x0F .ackUnsolicited0F .unsolicited = true := by decide

theorem test_ackInvalid07 :
    ackRowTest 0x07 .ackInvalid07 .invalid = true := by decide

theorem test_ackInvalid08 :
    ackRowTest 0x08 (.ackInvalid08 0x08) .invalid = true ∧ ackRowTest 0x09 (.ackInvalid08 0x09) .invalid = true := by decide

theorem test_ackInvalid10 :
    ackRowTest 0x10 (.ackInvalid10 0x10) .invalid = true ∧ ackRowTest 0x1F (.ackInvalid10 0x1F) .invalid = true := by decide

theorem test_ackInvalid20 :
    ackRowTest 0x20 (.ackInvalid20 0x20) .invalid = true ∧ ackRowTest 0x3F (.ackInvalid20 0x3F) .invalid = true := by decide

theorem test_ackInvalid40 :
    ackRowTest 0x40 (.ackInvalid40 0x40) .invalid = true ∧ ackRowTest 0x7F (.ackInvalid40 0x7F) .invalid = true := by decide

theorem test_ackInvalid80 :
    ackRowTest 0x80 (.ackInvalid80 0x80) .invalid = true ∧ ackRowTest 0xFF (.ackInvalid80 0xFF) .invalid = true := by decide

/-- P3. -/
theorem test_wireFrameEmpty :
    leaves (.wireFrameEmpty 0x2A 0x61 0xFE 0x02 0x03 0x6C 0x0D) seek =
      some (.seekingPrefix, [], 0, .events [.discarded (.deviceError 0x03) [0x2A, 0x61, 0x00, 0x05, 0xFE, 0x02, 0x03, 0x6C, 0x0D]]) := by decide

/-- P1, i = 2 to 5. -/
theorem test_wireHeader :
    leaves (.wireHeader 0x2A 0x61 0x00 0x07) seek = some (.readingBody, [0x2A, 0x61, 0x00, 0x07], 7, .events []) := by decide

/-- V7. -/
theorem test_wireRecord :
    result (.wireRecord 0x03 0x01 0xFF 0x95 0x4D 0xFF 0xFF) =
      some (.points (.ok [⟨0x03, 0x01, 0xFF, BitVec.ofInt 32 (-27315)⟩])) := by decide

/-! Witnesses: the hypotheses of each obligation that has any are met, clause by clause at boundary values -/

/-- The invariant as a test. -/
def invHolds (s : State) : Bool :=
  decide (s.buf.map Prod.fst = List.range s.n.toNat) &&
    match s.st with
    | .seekingPrefix => decide (s.n = 0 ∧ s.rem = 0)
    | .readingHeader =>
      decide (1 ≤ s.n.toNat ∧ s.n.toNat ≤ 3 ∧ s.rem = 0 ∧ byteAt s.heldBytes 0 = s.cfg.prefixByte)
    | .readingBody =>
      decide (4 ≤ s.n.toNat ∧ 1 ≤ s.rem.toNat ∧ byteAt s.heldBytes 0 = s.cfg.prefixByte ∧
        byteAt s.heldBytes 1 = s.cfg.formatByte ∧
        s.n.toNat + s.rem.toNat = 4 + u16be (byteAt s.heldBytes 2) (byteAt s.heldBytes 3))

/-- The test is the invariant. -/
theorem inv_of_invHolds {s : State} (h : invHolds s = true) : s.Inv := by
  unfold invHolds at h
  refine ⟨by simp only [Bool.and_eq_true, decide_eq_true_eq] at h; exact h.1, ?_⟩
  unfold State.stateInv
  cases hs : s.st <;> simp only [hs, Bool.and_eq_true, decide_eq_true_eq] at h ⊢ <;> exact h.2

theorem witness_Inv_seek :
    seek.Inv := inv_of_invHolds (by decide)

theorem witness_Inv_header1 :
    header1.Inv := inv_of_invHolds (by decide)

theorem witness_Inv_header3 :
    header3.Inv := inv_of_invHolds (by decide)

theorem witness_Inv_headerBad :
    headerBad.Inv := inv_of_invHolds (by decide)

theorem witness_Inv_body2 :
    body2.Inv := inv_of_invHolds (by decide)

theorem witness_Inv_body1 :
    body1.Inv := inv_of_invHolds (by decide)

theorem witness_atReset :
    seek.atReset := ⟨rfl, rfl, rfl, rfl⟩

theorem witness_RequestsOfInstructionsDecodeBack :
    wellFormed (.ackInvalid08 0x09) = true ∧ wellFormed (.ackInvalid80 0xFF) = true ∧ wellFormed (.tempsplit 0x80000000) = true := by decide

theorem witness_DecodedRequestsAreEncodings :
    ∃ i, decode ⟨.op, [0x08, 0xFF, 0xFF, 0xFF, 0xCE]⟩ = .ok i := ⟨.tempsplit 0xFFFFFFCE, by decide⟩

theorem witness_EveryResponseCodeHasOneRow :
    wellFormed .ackInvalid07 = true ∧ encode .ackInvalid07 = ⟨.ack, [0x07]⟩ := by decide

theorem witness_UnassignedSelectorsAreRefused :
    9 ≤ (0x09 : Byte).toNat ∧ 9 ≤ (0xFF : Byte).toNat ∧
      (issuing seek [⟨.op, [0x09, 0x00]⟩]).pending = ⟨.op, 0x09 :: [0x00]⟩ :: [] := by decide

theorem witness_StepExecutesDecodedRequest :
    (issuing body1 [⟨.op, [0x02]⟩]).pending = ⟨.op, [0x02]⟩ :: [] ∧ decode ⟨.op, [0x02]⟩ = .ok .sfIdle ∧ body1.pending = [] := by decide

theorem witness_StepKeepsFramerInvariant :
    ∃ t, (issuing body1 [encode (.sfFeed 0x0D)]).Inv ∧ step (issuing body1 [encode (.sfFeed 0x0D)]) = .next t := ⟨_, inv_of_invHolds (by decide), rfl⟩

theorem witness_NoStepFaultsUnderInvariant :
    (issuing header3 [encode (.sfFeed 0xFF)]).Inv := inv_of_invHolds (by decide)

theorem witness_EveryInstructionCompletes :
    (issuing body2 [encode .sfIdle]).Inv := inv_of_invHolds (by decide)

theorem witness_StepKeepsBufferCanonical :
    ∃ t, (issuing body2 [encode (.sfFeed 0x2A)]).buf.wf = true ∧ step (issuing body2 [encode (.sfFeed 0x2A)]) = .next t := ⟨_, by decide, rfl⟩

theorem witness_NoOperationWritesConfiguration :
    ∃ t u, exec (.wireHeader 0x2A 0x61 0x00 0x07) seek = .next t ∧ Reaches (issuing header1 [encode .sfReset]) u ∧ u.st = .seekingPrefix := ⟨_, _, rfl, .step .refl rfl, rfl⟩

theorem witness_AddressConstantsAreNeverRead :
    ∃ t, exec (.sfFeed 0x0D) body1 = .next t := ⟨_, rfl⟩

theorem witness_PureOperationsOnlyAnswer :
    (feedsFramer (.encode messageG) = false ∧ .encode messageG ≠ Instr.sfReset ∧
        seek.cfg.prefixByte = body1.cfg.prefixByte ∧ seek.cfg.formatByte = body1.cfg.formatByte ∧ seek.cfg.termByte = body1.cfg.termByte) ∧
      feedsFramer (.ackclass 0x0D) = false ∧ .ackclass 0x0D ≠ Instr.sfReset ∧ (∀ m : Message, .ackclass 0x0D ≠ Instr.encode m) ∧
        ∀ (b : Bytes) (chk : Bool), .ackclass 0x0D ≠ Instr.decode b chk := 
  ⟨⟨rfl, nofun, rfl, rfl, rfl⟩, rfl, nofun, fun _ => nofun, fun _ _ => nofun⟩

theorem witness_SfResetEmptiesFramer :
    ∃ t, seek.atReset ∧ exec .sfReset seek = .next t := ⟨_, witness_atReset, rfl⟩

theorem witness_IdlePollsNeverChangeFramer :
    (issuing body2 (List.replicate 3 (encode .sfIdle))).pending = List.replicate 3 (encode .sfIdle) ++ [] := by decide

theorem witness_SeekingSkipsOrStarts :
    seek.Inv ∧ seek.st = .seekingPrefix ∧ (0x61 : Byte) ≠ seek.cfg.prefixByte ∧ (0x2A : Byte) = seek.cfg.prefixByte := ⟨witness_Inv_seek, by decide⟩

theorem witness_HeaderBytesAreCollectedThenChecked :
    header1.Inv ∧ header1.st = .readingHeader ∧ header1.n.toNat < 3 ∧
      header3.Inv ∧ header3.st = .readingHeader ∧ header3.n.toNat = 3 ∧
      byteAt (header3.heldBytes ++ [0x01]) 0 = header3.cfg.prefixByte ∧ byteAt (header3.heldBytes ++ [0x01]) 1 = header3.cfg.formatByte ∧
      u16be (byteAt (header3.heldBytes ++ [0x01]) 2) (byteAt (header3.heldBytes ++ [0x01]) 3) = 1 ∧
      u16be (byteAt (header3.heldBytes ++ [0x00]) 2) (byteAt (header3.heldBytes ++ [0x00]) 3) = 0 := ⟨witness_Inv_header1, by decide, by decide, witness_Inv_header3, by decide⟩

theorem witness_HeaderBytesAreCollectedThenChecked_bad :
    headerBad.Inv ∧ headerBad.st = .readingHeader ∧ headerBad.n.toNat = 3 ∧
      byteAt (headerBad.heldBytes ++ [0x61]) 1 ≠ headerBad.cfg.formatByte := ⟨witness_Inv_headerBad, by decide⟩

theorem witness_BodyBytesAreCountedThenDecoded :
    (body2.Inv ∧ body2.st = .readingBody ∧ body2.rem ≠ 1) ∧ body1.Inv ∧ body1.st = .readingBody ∧ body1.rem = 1 := ⟨⟨witness_Inv_body2, by decide⟩, witness_Inv_body1, by decide⟩

theorem witness_FeedEventListsHaveSixShapes :
    ∃ t, exec (.sfFeed 0x0A) body1 = .next t := ⟨_, rfl⟩

theorem witness_CandidatesEndInResetState :
    ∃ t, exec (.sfFeed 0x61) headerBad = .next t ∧ t.out = .events [.badHeader [0x2A, 0x62, 0x2A, 0x61]] ∧
      Event.badHeader [0x2A, 0x62, 0x2A, 0x61] ∈ [Event.badHeader [0x2A, 0x62, 0x2A, 0x61]] ∧
      ∀ y, Event.badHeader [0x2A, 0x62, 0x2A, 0x61] ≠ .skip y := ⟨_, rfl, rfl, by simp, by simp⟩

theorem witness_FeedStoresOneByteOrDropsAll :
    ∃ t u v, (exec (.sfFeed 0x61) seek = .next t ∧ seek.st = .seekingPrefix ∧ (0x61 : Byte) ≠ seek.cfg.prefixByte) ∧
      (exec (.sfFeed 0x0D) body1 = .next u ∧ u.st = .seekingPrefix) ∧ exec (.sfFeed 0x2A) body2 = .next v ∧ v.st = .readingBody := ⟨_, _, _, ⟨rfl, rfl, by decide⟩, ⟨rfl, rfl⟩, rfl, rfl⟩

theorem witness_FramerReportsOnlyBodyErrors :
    ∃ t u, (body1.Inv ∧ exec (.sfFeed 0x0D) body1 = .next t ∧ t.out = .events [.frame frameG messageG]) ∧
      header3.Inv ∧ exec (.sfFeed 0x00) header3 = .next u ∧
        u.out = .events [.missingTerminator, .discarded (.frameTooShort 4) [0x2A, 0x61, 0x00, 0x00]] := 
  ⟨_, _, ⟨witness_Inv_body1, rfl, by decide⟩, witness_Inv_header3, rfl, by decide⟩

theorem witness_EveryFedByteIsAccountedFor :
    body2.Inv := witness_Inv_body2

theorem witness_TranscriptsRunTheFramer :
    ∃ t evs, (issuing seek [encode (.sfFeed 0x00), encode .sfIdle, encode (.sfFeed 0x2A)]).pending =
        [some (0x00 : Byte), none, some 0x2A].map (fun o => match o with
          | some x => encode (.sfFeed x)
          | none => encode .sfIdle) ++ [] ∧
      feedAll ([some (0x00 : Byte), none, some 0x2A].filterMap id) seek = .ok (t, evs) := ⟨_, _, rfl, rfl⟩

theorem witness_BodyBytesAreNeverInspected :
    body2.Inv ∧ body2.st = .readingBody ∧ ([0x2A] : Bytes).length < body2.rem.toNat := ⟨witness_Inv_body2, by decide⟩

theorem witness_ResynchronisesAfterNoise :
    seek.atReset ∧ (∀ b ∈ ([0x00, 0x61] : Bytes), b ≠ seek.cfg.prefixByte) ∧ encodeFrame seek.cfg messageG = .ok frameG ∧
      ∃ m, decodeFrame seek.cfg frameG seek.cfg.sfCheck = .ok m := ⟨witness_atReset, by decide, by decide, messageG, by decide⟩

theorem witness_FramesAreEmittedInArrivalOrder :
    seek.atReset ∧ List.Forall₂ (fun m f => encodeFrame seek.cfg m = .ok f ∧ decodeFrame seek.cfg f seek.cfg.sfCheck = .ok m)
      [messageG, messageE] [frameG, frameE] := 
  ⟨witness_atReset, .cons (by decide) (.cons (by decide) .nil)⟩

theorem witness_WireBytesRunTheFramer :
    body1.Inv := witness_Inv_body1

theorem witness_WireHeaderFromReset :
    seek.atReset ∧ (0x62 : Byte) ≠ seek.cfg.formatByte ∧ (0x61 : Byte) = seek.cfg.formatByte ∧ u16be 0x00 0x01 ≠ 0 ∧ u16be 0xFF 0xFF ≠ 0 := ⟨witness_atReset, by decide⟩

theorem witness_WireFrameFromReset :
    seek.atReset := witness_atReset

theorem witness_ChecksumEquivalentForms :
    ([0x01, 0x02, 0x03] : Bytes).Perm [0x03, 0x01, 0x02] ∧ (0xF9 : Byte) = checksumOf [0x01, 0x02, 0x03] := by decide

theorem witness_EncodeBuildsTheFrame :
    65531 ≤ (List.replicate 65531 (0x00 : Byte)).length ∧ (List.replicate 65530 (0x00 : Byte)).length ≤ 65530 := 
  ⟨le_of_eq List.length_replicate.symm, le_of_eq List.length_replicate⟩

theorem witness_FrameLayout :
    messageG.payload.length ≤ 65530 ∧ 1 < messageG.payload.length := by decide

theorem witness_OnlyFrameSizedInputsDecode :
    decodeFrame Cfg.default frameE true = .ok messageE := by decide

theorem witness_ResponseCodeIsJudgedLast :
    decodeFrame seek.cfg (frameE.take 8) false = .err (.lengthMismatch 5 8) ∧ decodeFrame seek.cfg frameE false = .ok messageE ∧
      decodeFrame seek.cfg [0x2A, 0x61, 0x00, 0x05, 0xFE, 0x02, 0x07, 0x68, 0x0D] false = .ok { messageE with instruction := 0x07 } ∧
      decodeFrame seek.cfg [0x2A, 0x61, 0x00, 0x05, 0xFE, 0x02, 0x06, 0x69, 0x0D] false = .ok { messageE with instruction := 0x06 } := by decide

theorem witness_EncodeThenDecodeRoundTrip :
    ({ messageG with payload := List.replicate 65530 0x00 } : Message).payload.length ≤ 65530 := 
  le_of_eq List.length_replicate

theorem witness_SingleBitFlipsAreDetected :
    encodeFrame Cfg.default messageG = .ok frameG ∧ 10 < frameG.length ∧ 0 < frameG.length ∧ 7 < 8 := by decide

theorem witness_PayloadReorderingIsUndetected :
    messageG.payload.Perm [0xBB, 0xAA] ∧ encodeFrame Cfg.default messageG = .ok frameG := by decide

theorem witness_ClassForetellsChecking :
    decodeFrame Cfg.default frameE false = .ok messageE ∧ classify messageE.instruction = .ok ∧
      (decodeFrame Cfg.default [0x2A, 0x61, 0x00, 0x05, 0xFE, 0x02, 0x06, 0x69, 0x0D] false = .ok { messageE with instruction := 0x06 } ∧ classify 0x06 = .deviceError .noData) ∧
      (decodeFrame Cfg.default [0x2A, 0x61, 0x00, 0x05, 0xFE, 0x02, 0x0A, 0x65, 0x0D] false = .ok { messageE with instruction := 0x0A } ∧ classify 0x0A = .unsolicited) ∧
      decodeFrame Cfg.default [0x2A, 0x61, 0x00, 0x05, 0xFE, 0x02, 0x10, 0x5F, 0x0D] false = .ok { messageE with instruction := 0x10 } ∧ classify 0x10 = .invalid := by decide

theorem witness_MdecodeGivesOnePointPerRecord :
    ([0x01, 0x00, 0x00, 0x00, 0x64, 0x00] : Bytes).length % 7 ≠ 0 ∧ ([] : Bytes).length % 7 = 0 ∧
      ([0x01, 0x00, 0x00, 0x00, 0x64, 0x00, 0x00] : Bytes).length % 7 = 0 := by decide

theorem witness_TempsplitSignAndMagnitude :
    (BitVec.ofInt 32 (-1)).toInt < 0 ∧ (tempSplit (BitVec.ofInt 32 (-1))).neg = true := by decide

end Sys2Proof.Tests
end

section
/-! The reset state and the state `SF.RESET` leaves (R40, R181). -/

namespace Sys2Proof.Machine

@[simp] theorem State.resetWith_cfg (c : Cfg) : (State.resetWith c).cfg = c := rfl

theorem State.resetWith_atReset (c : Cfg) : (State.resetWith c).atReset := ⟨rfl, rfl, rfl, rfl⟩

theorem State.resync_atReset (s : State) : s.resync.atReset := ⟨rfl, rfl, rfl, rfl⟩

/-- `State.atReset` speaks of the framer's registers only, not of the results handed out (log 4). -/
@[simp] theorem State.answer_atReset (s : State) (o : Output) : (s.answer o).atReset ↔ s.atReset := Iff.rfl

/-- `State.atReset` in terms of the bytes held instead of the cells. -/
theorem State.atReset_iff_heldBytes (s : State) :
    s.atReset ↔ s.st = .seekingPrefix ∧ s.n = 0 ∧ s.rem = 0 ∧ s.heldBytes = [] := by
  simp only [State.atReset, State.heldBytes, List.map_eq_nil_iff]
  tauto

/-- `SF.RESET` completes in every state: the framer is resynchronised and no event is answered (R181). -/
@[simp] theorem exec_sfReset (s : State) : exec .sfReset s = .next (s.resync.answer (.events [])) := rfl

/-- Settles O7: both states meet `State.atReset`, and neither reset nor `SF.RESET` alters the configuration. -/
theorem resetLeavesFramerEmpty : Obligations.ResetLeavesFramerEmpty := by
  refine ⟨fun c => ?_, fun s => ⟨s.resync.answer (.events []), exec_sfReset s, ?_⟩⟩
  · obtain ⟨hst, hn, hrem, hheld⟩ := (State.atReset_iff_heldBytes _).mp (State.resetWith_atReset c)
    exact ⟨hst, hn, hrem, hheld, State.resetWith_cfg c⟩
  · have hreset : (s.resync.answer (.events [])).atReset := (State.answer_atReset _ _).mpr s.resync_atReset
    obtain ⟨hst, hn, hrem, hheld⟩ := (State.atReset_iff_heldBytes _).mp hreset
    exact ⟨hst, hn, hrem, hheld, by simp⟩

end Sys2Proof.Machine
end

section
/-! The encoded frame read at an offset: the seven bytes of the head, the payload, then checksum and terminator (R92). -/

namespace Sys2Proof.Machine

/-- `ENCODE` completes in every state and only hands out its result (R132). -/
@[simp] theorem exec_encode (m : Message) (s : State) :
    exec (.encode m) s = .next { s with out := .encoded (encodeFrame s.cfg m) } := rfl

/-- A payload of at most `PAYLOAD_MAX` bytes always fits the length field. -/
theorem encodeFrame_of_length_le (c : Cfg) (m : Message) (h : m.payload.length ≤ 65530) :
    encodeFrame c m =
      .ok (frameHead c m ++ m.payload ++ [checksumOf (frameHead c m ++ m.payload), c.termByte]) :=
  if_neg (show ¬ m.payload.length + 5 > 65535 by omega)

@[simp] theorem frameHead_length (c : Cfg) (m : Message) : (frameHead c m).length = 7 := rfl

theorem byteAt_frame_head (c : Cfg) (m : Message) (p t : Bytes) (i : Nat) (h : i < 7) :
    byteAt (frameHead c m ++ p ++ t) i = byteAt (frameHead c m) i := by
  rw [List.append_assoc, byteAt_append_left _ _ _ (by simpa using h)]

theorem byteAt_frame_payload (c : Cfg) (m : Message) (p t : Bytes) (k : Nat) (h : k < p.length) :
    byteAt (frameHead c m ++ p ++ t) (7 + k) = byteAt p k := by
  rw [byteAt_append_left _ _ _ (by simpa using h), byteAt_append_right _ _ _ (by simp),
    frameHead_length, Nat.add_sub_cancel_left]

theorem byteAt_frame_tail (c : Cfg) (m : Message) (p t : Bytes) (j : Nat) :
    byteAt (frameHead c m ++ p ++ t) (7 + p.length + j) = byteAt t j := by
  have hcovered : (frameHead c m ++ p).length = 7 + p.length := by simp
  rw [byteAt_append_right _ _ _ (by omega), hcovered, Nat.add_sub_cancel_left]

/-- The bytes the checksum covers are those before it (R97). -/
theorem take_frame_covered (c : Cfg) (m : Message) (p t : Bytes) :
    (frameHead c m ++ p ++ t).take (7 + p.length) = frameHead c m ++ p :=
  List.take_left' (by simp)

/-- The length field of the head reads back as the length it announces: it fits 16 bits (R93). -/
theorem u16be_frameHead (c : Cfg) (m : Message) (h : m.payload.length ≤ 65530) :
    u16be (byteAt (frameHead c m) 2) (byteAt (frameHead c m) 3) = 5 + m.payload.length :=
  u16be_hi8_lo8 _ (show 5 + m.payload.length < 65536 by omega)

/-- Settles O40: each offset lies in the head, in the payload or in the two bytes after it. -/
theorem frameLayout : Obligations.FrameLayout := by
  intro s m hlen
  have head := byteAt_frame_head s.cfg m m.payload
    [checksumOf (frameHead s.cfg m ++ m.payload), s.cfg.termByte]
  have tail := byteAt_frame_tail s.cfg m m.payload
    [checksumOf (frameHead s.cfg m ++ m.payload), s.cfg.termByte]
  refine ⟨_, by rw [exec_encode, encodeFrame_of_length_le _ _ hlen], ?_, head 0 (by decide), head 1 (by decide), ?_,
    head 4 (by decide), head 5 (by decide), head 6 (by decide),
    fun k hk => byteAt_frame_payload s.cfg m _ _ k hk, ?_, ?_⟩
  · simp only [List.length_append, frameHead_length, List.length_cons, List.length_nil]
    omega
  · rw [head 2 (by decide), head 3 (by decide)]
    exact u16be_frameHead s.cfg m hlen
  · rw [take_frame_covered]
    exact tail 0
  · rw [show 8 + m.payload.length = 7 + m.payload.length + 1 by omega]
    exact tail 1

end Sys2Proof.Machine
end

section
/-! What the sender's operations of the FrameCodec compute: `CHECKSUM` over the integers (R130) and `ENCODE`'s two results
(R132). -/

namespace Sys2Proof.Machine

@[simp] theorem exec_checksum (b : Bytes) (s : State) :
    exec (.checksum b) s = .next { s with out := .checksum (checksumOf b) } := rfl

theorem byteSum_eq_sum_map_toNat (s : Bytes) : byteSum s = (s.map BitVec.toNat).sum := by
  induction s with
  | nil => rfl
  | cons b s ih => rw [byteSum_cons, ih, List.map_cons, List.sum_cons]

/-- The remainder `checksumOf` takes is a byte already, so nothing is lost in storing it. -/
theorem checksumOf_toNat (s : Bytes) : ((checksumOf s).toNat : Int) = (255 - (byteSum s : Int)) % 256 := by
  simp only [checksumOf, BitVec.toNat_ofNat]
  rw [Nat.mod_eq_of_lt (by omega), Int.toNat_of_nonneg (by omega)]

/-- Settles O37: the model's byte sum is the sum over the integers, and the checksum is its remainder. -/
theorem checksumIsComplementOfSum : Obligations.ChecksumIsComplementOfSum := fun s b =>
  ⟨rfl, checksumOf b, exec_checksum b s, by rw [checksumOf_toNat, byteSum_eq_sum_map_toNat]⟩

theorem encodeFrame_of_length_gt (c : Cfg) (m : Message) (h : 65531 ≤ m.payload.length) :
    encodeFrame c m = .err (.payloadTooLarge m.payload.length) :=
  if_pos (show m.payload.length + 5 > 65535 by omega)

theorem lo8_mod (v : Nat) : lo8 (v % 256) = lo8 v := by
  apply BitVec.eq_of_toNat_eq
  simp only [lo8, BitVec.toNat_ofNat]
  omega

/-- Settles O39: at 65531 payload bytes the length no longer fits 16 bits; below, the low length byte needs no reduction. -/
theorem encodeBuildsTheFrame : Obligations.EncodeBuildsTheFrame := by
  intro s m
  refine ⟨rfl, fun hlong => ?_, fun hshort => ?_⟩
  · rw [exec_encode, encodeFrame_of_length_gt _ _ hlong]
  · have hlow : BitVec.ofNat 8 ((5 + m.payload.length) % 256) = lo8 (5 + m.payload.length) := lo8_mod _
    rw [exec_encode, encodeFrame_of_length_le _ _ hshort]
    simp only [hlow]
    rfl

end Sys2Proof.Machine
end

section
/-! `DECODE` as its structural checks followed by the judgement of the response code (R136, R143). -/

namespace Sys2Proof.Machine

@[simp] theorem exec_decode (b : Bytes) (chk : Bool) (s : State) :
    exec (.decode b chk) s = .next { s with out := .decoded (decodeFrame s.cfg b chk) } := rfl

/-- The four ranges of R170's table. -/
theorem classify_cases (code : Byte) :
    (code = 0 ∧ classify code = .ok) ∨
      (1 ≤ code.toNat ∧ code.toNat ≤ 6 ∧ ∃ kind, classify code = .deviceError kind) ∨
      (10 ≤ code.toNat ∧ code.toNat ≤ 15 ∧ classify code = .unsolicited) ∨
      (7 ≤ code.toNat ∧ ¬ (10 ≤ code.toNat ∧ code.toNat ≤ 15) ∧ classify code = .invalid) := by
  unfold classify
  split
  case h_1 h => exact .inl ⟨BitVec.eq_of_toNat_eq h, rfl⟩
  case h_8 =>
    simp only [imp_false] at *
    split
    case isTrue h => exact .inr (.inr (.inl ⟨h.1, h.2, rfl⟩))
    case isFalse h => exact .inr (.inr (.inr ⟨by omega, h, rfl⟩))
  all_goals exact .inr (.inl ⟨by omega, by omega, _, rfl⟩)

/-- R143: which codes raise which error. -/
theorem codeError_eq (code : Byte) :
    codeError code =
      if code = 0 ∨ (10 ≤ code.toNat ∧ code.toNat ≤ 15) then none
      else if code.toNat ≤ 6 then some (.deviceError code)
      else some (.invalidResponseCode code) := by
  unfold codeError
  rcases classify_cases code with ⟨rfl, h⟩ | ⟨hlo, hhi, kind, h⟩ | ⟨hlo, hhi, h⟩ | ⟨hlo, hrange, h⟩
  · rfl
  · rw [h, if_neg (by bv_omega), if_pos hhi]
  · rw [h, if_pos (.inr ⟨hlo, hhi⟩)]
  · rw [h, if_neg (by bv_omega), if_neg (by bv_omega)]

theorem codeError_eq_none_iff (code : Byte) :
    codeError code = none ↔ classify code = .ok ∨ classify code = .unsolicited := by
  unfold codeError
  cases classify code <;> simp

/-- A check that raises an error is passed exactly when its condition fails. -/
theorem ite_some_eq_none_iff (p : Prop) [Decidable p] (e : Err) (rest : Option Err) :
    (if p then some e else rest) = none ↔ ¬ p ∧ rest = none := by
  split <;> simp [*]

/-- The conditions a frame accepted without checking meets (R136 to R142). -/
theorem structuralError_eq_none_iff (c : Cfg) (b : Bytes) :
    structuralError c b = none ↔
      7 ≤ b.length ∧ byteAt b 0 = c.prefixByte ∧ byteAt b 1 = c.formatByte ∧
        u16be (byteAt b 2) (byteAt b 3) = b.length - 4 ∧ 5 ≤ u16be (byteAt b 2) (byteAt b 3) ∧
        byteAt b (b.length - 1) = c.termByte ∧
        checksumOf (sliceOf b 0 (b.length - 2)) = byteAt b (b.length - 2) := by
  simp only [structuralError, ite_some_eq_none_iff, not_lt, ne_eq, not_not, not_or, and_true, and_assoc]

/-- Steps 1 to 6 of `DECODE` raise structural kinds only (R240). -/
theorem structuralError_family (c : Cfg) (b : Bytes) (e : Err) (h : structuralError c b = some e) :
    errFamily e = .structural := by
  simp only [structuralError] at h
  split_ifs at h <;> cases h <;> rfl

theorem decodeFrame_of_structuralError (c : Cfg) (b : Bytes) (chk : Bool) (e : Err)
    (h : structuralError c b = some e) : decodeFrame c b chk = .err e := by
  rw [decodeFrame, h]

/-- What follows an accepted frame: with `chk` the judgement of the response code, then the Message. -/
theorem decodeFrame_of_accepted (c : Cfg) (b : Bytes) (chk : Bool) (h : structuralError c b = none) :
    decodeFrame c b chk = (if chk then codeError (byteAt b 6) else none).elim (.ok (frameMessage b)) .err := by
  rw [decodeFrame, h]
  cases (if chk then codeError (byteAt b 6) else none) <;> rfl

theorem decodeFrame_false_eq_err_iff (c : Cfg) (b : Bytes) (e : Err) :
    decodeFrame c b false = .err e ↔ structuralError c b = some e := by
  cases h : structuralError c b with
  | none => simp [decodeFrame_of_accepted c b false h]
  | some e' => simp [decodeFrame_of_structuralError c b false e' h]

theorem decodeFrame_false_eq_ok_iff (c : Cfg) (b : Bytes) (m : Message) :
    decodeFrame c b false = .ok m ↔ structuralError c b = none ∧ frameMessage b = m := by
  cases h : structuralError c b with
  | none => simp [decodeFrame_of_accepted c b false h]
  | some e => simp [decodeFrame_of_structuralError c b false e h]

theorem decodeFrame_true_eq_ok_iff (c : Cfg) (b : Bytes) (m : Message) :
    decodeFrame c b true = .ok m ↔
      structuralError c b = none ∧ codeError (byteAt b 6) = none ∧ frameMessage b = m := by
  cases h : structuralError c b with
  | none => cases hcode : codeError (byteAt b 6) <;> simp [decodeFrame_of_accepted c b true h, hcode]
  | some e => simp [decodeFrame_of_structuralError c b true e h]

/-- Settles O41: a failed structural check is `structuralError`'s answer for either value of `chk`; the code is judged last. -/
theorem decodeRunsItsChecksInOrder : Obligations.DecodeRunsItsChecksInOrder := by
  intro s b chk
  refine ⟨_, exec_decode b chk s, ?_⟩
  dsimp only
  split_ifs with hshort hpfx hfmt hlen hterm hsum hdev hinv
  iterate 6 exact decodeFrame_of_structuralError _ _ _ _ (by simp [structuralError, *])
  all_goals rw [decodeFrame_of_accepted _ _ _ (by simp [structuralError, *]), codeError_eq]
  · obtain ⟨rfl, hlo, hhi⟩ := hdev
    rw [if_pos rfl, if_neg (by bv_omega), if_pos hhi]
    rfl
  · obtain ⟨rfl, hne, hrange⟩ := hinv
    simp only [true_and] at hdev
    rw [if_pos rfl, if_neg (not_or.mpr ⟨hne, hrange⟩), if_neg (by bv_omega)]
    rfl
  · cases chk
    · rfl
    · simp only [true_and] at hdev hinv
      rw [if_pos rfl, if_pos (by bv_omega)]
      rfl

/-- Settles O43: with `structuralError` decided both ways, only `codeError` of byte 6 is left, the Message's instruction. -/
theorem responseCodeIsJudgedLast : Obligations.ResponseCodeIsJudgedLast := by
  intro s b
  refine ⟨fun e he => ?_, fun m hm => ?_⟩
  · rw [decodeFrame_false_eq_err_iff] at he
    exact ⟨structuralError_family _ _ _ he, by rw [exec_decode, decodeFrame_of_structuralError _ _ _ _ he]⟩
  · obtain ⟨haccepted, rfl⟩ := (decodeFrame_false_eq_ok_iff _ _ _).mp hm
    have hcode : (frameMessage b).instruction = byteAt b 6 := rfl
    rw [exec_decode, decodeFrame_of_accepted _ _ _ haccepted, if_pos rfl, codeError_eq, hcode]
    split_ifs <;> rfl

end Sys2Proof.Machine
end

section
/-! The round trip of the frame codec: what `DECODE` reads from an encoded frame (R146). -/

namespace Sys2Proof.Machine

theorem frameMessage_frame (c : Cfg) (m : Message) (k t : Byte) :
    frameMessage (frameHead c m ++ m.payload ++ [k, t]) = m := by
  have head (i : Nat) (h : i < 7) := byteAt_frame_head c m m.payload [k, t] i h
  have hpayload : sliceOf (frameHead c m ++ m.payload ++ [k, t]) 7 (7 + m.payload.length) = m.payload :=
    sliceOf_append_mid (frameHead c m) m.payload [k, t]
  have hlength : (frameHead c m ++ m.payload ++ [k, t]).length - 2 = 7 + m.payload.length := by simp; omega
  rw [frameMessage, head 4 (by decide), head 5 (by decide), head 6 (by decide), hlength, hpayload]
  rfl

theorem structuralError_frame (c : Cfg) (m : Message) (h : m.payload.length ≤ 65530) :
    structuralError c (frameHead c m ++ m.payload ++ [checksumOf (frameHead c m ++ m.payload), c.termByte]) =
      none := by
  set f := frameHead c m ++ m.payload ++ [checksumOf (frameHead c m ++ m.payload), c.termByte] with hf
  have hlength : f.length = 7 + m.payload.length + 2 := by simp [hf]; omega
  have head (i : Nat) (h : i < 7) : byteAt f i = byteAt (frameHead c m) i := byteAt_frame_head c m _ _ i h
  have hannounced : u16be (byteAt f 2) (byteAt f 3) = 5 + m.payload.length := by
    rw [head 2 (by decide), head 3 (by decide), u16be_frameHead c m h]
  have hcovered : sliceOf f 0 (7 + m.payload.length) = frameHead c m ++ m.payload := take_frame_covered c m _ _
  have hterm : byteAt f (7 + m.payload.length + 1) = c.termByte := byteAt_frame_tail c m _ _ 1
  have hsum : byteAt f (7 + m.payload.length) = checksumOf (frameHead c m ++ m.payload) := byteAt_frame_tail c m _ _ 0
  rw [structuralError_eq_none_iff, hannounced, hlength, Nat.add_sub_cancel, hcovered, hsum]
  exact ⟨by omega, head 0 (by decide), head 1 (by decide), by omega, by omega, hterm, rfl⟩

/-- Settles O44: the frame passes every structural check, so what is left with checking is `codeError` of its instruction. -/
theorem encodeThenDecodeRoundTrip : Obligations.EncodeThenDecodeRoundTrip := by
  intro s m hlen
  have haccepted := structuralError_frame s.cfg m hlen
  have hmessage := frameMessage_frame s.cfg m (checksumOf (frameHead s.cfg m ++ m.payload)) s.cfg.termByte
  have hencode := encodeFrame_of_length_le s.cfg m hlen
  generalize frameHead s.cfg m ++ m.payload ++ [checksumOf (frameHead s.cfg m ++ m.payload), s.cfg.termByte] = f at *
  have hcode : byteAt f 6 = m.instruction := congrArg Message.instruction hmessage
  refine ⟨f, by rw [exec_encode, hencode], ?_, ?_⟩
  · rw [exec_decode, (decodeFrame_false_eq_ok_iff _ _ _).mpr ⟨haccepted, hmessage⟩]
  · rw [← codeError_eq_none_iff, ← hcode]
    simp [decodeFrame_true_eq_ok_iff, haccepted, hmessage]

end Sys2Proof.Machine
end

section
/-! `ACKCLASS` as R170's table, and the table's last column: what the code makes of a frame decoded with checking. -/

namespace Sys2Proof.Machine

@[simp] theorem exec_ackclass (code : Byte) (s : State) :
    exec (.ackclass code) s = .next { s with out := .ackClass (classify code) } := rfl

/-- `classify` code by code: its `match` on the code's number is R170's table. -/
theorem classify_eq_table (code : Byte) :
    classify code =
      if code = 0x00 then .ok
      else if code = 0x01 then .deviceError .unspecified
      else if code = 0x02 then .deviceError .unrecognizedInstruction
      else if code = 0x03 then .deviceError .malformedData
      else if code = 0x04 then .deviceError .notPermitted
      else if code = 0x05 then .deviceError .deviceFault
      else if code = 0x06 then .deviceError .noData
      else if 0x0A ≤ code.toNat ∧ code.toNat ≤ 0x0F then .unsolicited
      else .invalid := by
  simp only [← BitVec.toNat_inj, classify]
  split
  case h_8 =>
    simp only [imp_false] at *
    simp [*]
  all_goals next hcode => simp [hcode]

/-- Checking adds to an accepted frame the judgement of its Message's code and nothing else (R143). -/
theorem decodeFrame_true_of_false_ok (c : Cfg) (b : Bytes) (m : Message) (h : decodeFrame c b false = .ok m) :
    decodeFrame c b true = (codeError m.instruction).elim (.ok m) .err := by
  obtain ⟨haccepted, rfl⟩ := (decodeFrame_false_eq_ok_iff _ _ _).mp h
  exact decodeFrame_of_accepted c b true haccepted

/-- Settles O48: the classes are `classify_eq_table`; in each of its four ranges `codeError` raises what the last column says. -/
theorem ackclassTable : Obligations.AckclassTable := by
  refine fun s code => ⟨rfl, by rw [exec_ackclass, classify_eq_table], fun b m hm hcode => ?_⟩
  rw [decodeFrame_true_of_false_ok _ _ _ hm, hcode, codeError]
  rcases classify_cases code with ⟨rfl, h⟩ | ⟨hlo, hhi, kind, h⟩ | ⟨hlo, hhi, h⟩ | ⟨hlo, hrange, h⟩
  · rfl
  · rw [h, if_neg (by bv_omega), if_pos hhi]
    rfl
  · rw [h, if_neg (by bv_omega), if_neg (by omega), if_pos ⟨hlo, hhi⟩]
    rfl
  · rw [h, if_neg (by bv_omega), if_neg (by omega), if_neg hrange]
    rfl

end Sys2Proof.Machine
end

section
/-! `SF.RESET` in the reset state (R181), and the polls `SF.IDLE` (R187) as runs of steps. -/

namespace Sys2Proof.Machine

theorem State.resync_eq_self_of_atReset (s : State) (h : s.atReset) : s.resync = s := by
  obtain ⟨hst, hbuf, hn, hrem⟩ := h
  rw [State.resync, ← hst, ← hbuf, ← hn, ← hrem]

@[simp] theorem sameFramer_refl (s : State) : sameFramer s s := ⟨rfl, rfl, rfl, rfl, rfl⟩

/-- `sameFramer` does not look at the results handed out (log 4). -/
@[simp] theorem sameFramer_answer (s t : State) (o : Output) : sameFramer s (t.answer o) ↔ sameFramer s t := Iff.rfl

/-- Settles O18: `SF.RESET` answers `State.resync`, which is the state itself where the framer is at reset. -/
theorem sfResetEmptiesFramer : Obligations.SfResetEmptiesFramer := by
  refine ⟨rfl, fun s => ⟨exec_sfReset s, fun hreset t ht => ?_⟩⟩
  rw [exec_sfReset, s.resync_eq_self_of_atReset hreset] at ht
  cases ht
  exact (sameFramer_answer _ _ _).mpr (sameFramer_refl s)

/-- `SF.IDLE` completes in every state and only hands out the empty event list (R187). -/
@[simp] theorem exec_sfIdle (s : State) : exec .sfIdle s = .next { s with out := .events [] } := rfl

/-- A step executes the next request, where it decodes, from the state without it (R13, log 1). -/
theorem step_of_pending (s : State) (r : Request) (rest : List Request) (i : Instr) (hp : s.pending = r :: rest)
    (hd : decode r = .ok i) : step s = exec i { s with pending := rest } := by
  simp [step, State.fetch, hp, hd]

theorem step_sfIdle (s : State) (rest : List Request) (hp : s.pending = encode .sfIdle :: rest) :
    step s = .next { s with pending := rest, out := .events [] } := by
  rw [step_of_pending s _ rest .sfIdle hp rfl, exec_sfIdle]

theorem run_succ_of_step (k : Nat) (s t : State) (h : step s = .next t) :
    Host.Core.run Sys2Proof.core (k + 1) s = Host.Core.run Sys2Proof.core k t := by
  have hcore : Sys2Proof.core.step s = .next t := h
  simp only [Host.Core.run, hcore]

/-- Settles O19, by induction on the number of polls: each takes its request and leaves the registers (R187). -/
theorem idlePollsNeverChangeFramer : Obligations.IdlePollsNeverChangeFramer := by
  refine ⟨rfl, exec_sfIdle, fun k => ?_⟩
  induction k with
  | zero => exact fun s rest hp => ⟨s, rfl, sameFramer_refl s, hp⟩
  | succ k ih =>
    intro s rest hp
    rw [run_succ_of_step k s _ (step_sfIdle s _ hp)]
    exact ih { s with pending := List.replicate k (encode .sfIdle) ++ rest, out := .events [] } rest rfl

end Sys2Proof.Machine
end

section
/-! What the framer's operations do where `BUF` holds exactly the indices below `n` (R33), as it does under the invariant (R35): the
append, the check of the header and the completion of a candidate, in terms of the bytes held. -/

namespace Sys2Proof.Machine

/-- The cells under the invariant: `BUF` holds the indices below `n` (R33). -/
theorem State.Inv.cells {s : State} (h : s.Inv) : s.buf.map Prod.fst = List.range s.n.toNat := h.1

/-- In `SEEKING_PREFIX` the invariant leaves one setting of the registers: that of reset (R35). -/
theorem State.Inv.atReset_of_seeking {s : State} (h : s.Inv) (hst : s.st = .seekingPrefix) : s.atReset := by
  obtain ⟨hcells, hregs⟩ := h
  simp only [State.stateInv, hst] at hregs
  obtain ⟨hn, hrem⟩ := hregs
  exact ⟨hst, by simpa [hn] using hcells, hn, hrem⟩

theorem State.Inv.n_le_of_header {s : State} (h : s.Inv) (hst : s.st = .readingHeader) : s.n.toNat ≤ 3 := by
  obtain ⟨-, hregs⟩ := h
  simp only [State.stateInv, hst] at hregs
  obtain ⟨-, hle, -⟩ := hregs
  exact hle

/-- In `READING_BODY` a byte is still missing, of a candidate that fits `BUF` (R32, R35). -/
theorem State.Inv.rem_and_n_of_body {s : State} (h : s.Inv) (hst : s.st = .readingBody) :
    s.rem ≠ 0 ∧ s.n.toNat < bufCap := by
  obtain ⟨-, hregs⟩ := h
  simp only [State.stateInv, hst] at hregs
  obtain ⟨-, hrem, -, -, hsum⟩ := hregs
  have hlen := u16be_lt (byteAt s.heldBytes 2) (byteAt s.heldBytes 3)
  exact ⟨by bv_omega, show s.n.toNat < 65539 by omega⟩

/-- Under the invariant there is always room for a byte (R32, R35). -/
theorem State.Inv.n_lt_bufCap {s : State} (h : s.Inv) : s.n.toNat < bufCap := by
  cases hst : s.st with
  | seekingPrefix =>
    obtain ⟨-, -, hn, -⟩ := h.atReset_of_seeking hst
    simp [hn]
  | readingHeader => exact (h.n_le_of_header hst).trans_lt (by decide)
  | readingBody => exact (h.rem_and_n_of_body hst).2

/-- The state `append(x)` leaves where the indices below `n` are held (`State.Inv.append_eq`). -/
def State.push (s : State) (x : Byte) : State := { s with buf := s.buf ++ [(s.n.toNat, x)], n := s.n + 1 }

@[simp] theorem State.push_cfg (s : State) (x : Byte) : (s.push x).cfg = s.cfg := rfl

@[simp] theorem State.push_rem (s : State) (x : Byte) : (s.push x).rem = s.rem := rfl

@[simp] theorem State.push_resync (s : State) (x : Byte) : (s.push x).resync = s.resync := rfl

@[simp] theorem State.push_heldBytes (s : State) (x : Byte) : (s.push x).heldBytes = s.heldBytes ++ [x] := by
  simp [State.push, State.heldBytes]

theorem State.push_n_toNat (s : State) (x : Byte) (hn : s.n.toNat < bufCap) : (s.push x).n.toNat = s.n.toNat + 1 := by
  have hcap : s.n.toNat < 65539 := hn
  simp only [State.push]
  bv_omega

theorem State.Inv.append_eq {s : State} (h : s.Inv) (x : Byte) : s.append x = .ok (s.push x) :=
  s.append_held x h.cells h.n_lt_bufCap

/-- The byte pushed takes the first index not yet held. -/
theorem State.Inv.push_cells {s : State} (h : s.Inv) (x : Byte) :
    (s.push x).buf.map Prod.fst = List.range (s.push x).n.toNat := by
  rw [s.push_n_toNat x h.n_lt_bufCap, List.range_succ, ← h.cells]
  simp [State.push]

theorem State.heldBytes_length (s : State) (h : s.buf.map Prod.fst = List.range s.n.toNat) :
    s.heldBytes.length = s.n.toNat := by
  simpa [State.heldBytes] using congrArg List.length h

/-- Where the indices below `n` are held, `BUF[0..n)` is all the bytes held. -/
theorem State.bufPart_all (s : State) (h : s.buf.map Prod.fst = List.range s.n.toNat) :
    s.bufPart s.n.toNat = .ok s.heldBytes := by
  rw [s.bufPart_held _ h le_rfl]
  exact congrArg _ (List.take_of_length_le (s.heldBytes_length h).le)

/-- `COMPLETE` of the bytes held (R186). -/
theorem complete_held (s : State) (h : s.buf.map Prod.fst = List.range s.n.toNat) :
    complete s =
      .ok (s.resync, terminatorWarning s.cfg s.heldBytes ++ [candidateEvent s.cfg s.heldBytes]) := by
  rw [complete, s.bufPart_all h]

/-- `COMPLETE` of the bytes held and one more, whatever `rem` counts. -/
theorem State.Inv.complete_push {s : State} (h : s.Inv) (x : Byte) (r : BitVec 16) :
    complete { s.push x with rem := r } =
      .ok (s.resync, terminatorWarning s.cfg (s.heldBytes ++ [x]) ++ [candidateEvent s.cfg (s.heldBytes ++ [x])]) := by
  rw [← s.push_heldBytes]
  exact complete_held _ (h.push_cells x)

/-- The check of a whole header held (R184). -/
theorem checkHeader_held (t : State) (h : t.buf.map Prod.fst = List.range t.n.toNat) (hn : t.n.toNat = 4) :
    checkHeader t =
      if byteAt t.heldBytes 0 ≠ t.cfg.prefixByte ∨ byteAt t.heldBytes 1 ≠ t.cfg.formatByte then
        .ok (t.resync, [.badHeader t.heldBytes])
      else if u16be (byteAt t.heldBytes 2) (byteAt t.heldBytes 3) = 0 then
        .ok (t.resync, terminatorWarning t.cfg t.heldBytes ++ [candidateEvent t.cfg t.heldBytes])
      else
        .ok ({ t with
          st := .readingBody, rem := BitVec.ofNat 16 (u16be (byteAt t.heldBytes 2) (byteAt t.heldBytes 3)) }, []) := by
  have hheader : t.bufPart hdrLen = .ok t.heldBytes := by rw [← t.bufPart_all h, hn]
  rw [checkHeader, hheader]
  split_ifs with hbad hzero
  · exact if_pos hbad
  · exact (if_neg hbad).trans ((if_pos hzero).trans (complete_held { t with rem := _ } h))
  · exact (if_neg hbad).trans (if_neg hzero)

end Sys2Proof.Machine
end

section
/-! What `COMPLETE` reports of a candidate (R186): its warning looks at the last byte, and a candidate that decodes has none. -/

namespace Sys2Proof.Machine

/-- The warning of a candidate is about the byte that completed it. -/
theorem terminatorWarning_concat (c : Cfg) (s : Bytes) (x : Byte) :
    terminatorWarning c (s ++ [x]) = if x ≠ c.termByte then [.missingTerminator] else [] := by
  have hlast : byteAt (s ++ [x]) ((s ++ [x]).length - 1) = x := by
    rw [List.length_append, List.length_singleton, Nat.add_sub_cancel, byteAt_append_right _ _ _ le_rfl,
      Nat.sub_self, byteAt_cons_zero]
  rw [terminatorWarning, hlast]

theorem decodeFrame_of_length_lt (c : Cfg) (b : Bytes) (chk : Bool) (h : b.length < 7) :
    decodeFrame c b chk = .err (.frameTooShort b.length) :=
  decodeFrame_of_structuralError c b chk _ (if_pos h)

/-- A candidate too short to decode is discarded (R186, R137). -/
theorem candidateEvent_of_length_lt (c : Cfg) (raw : Bytes) (h : raw.length < 7) :
    candidateEvent c raw = .discarded (.frameTooShort raw.length) raw := by
  rw [candidateEvent, decodeFrame_of_length_lt c raw _ h]

/-- What decodes, with or without checking, passes the structural checks. -/
theorem structuralError_of_decodeFrame_ok (c : Cfg) (b : Bytes) (chk : Bool) (m : Message)
    (h : decodeFrame c b chk = .ok m) : structuralError c b = none := by
  cases chk with
  | false => exact ((decodeFrame_false_eq_ok_iff c b m).mp h).1
  | true => exact ((decodeFrame_true_eq_ok_iff c b m).mp h).1

/-- A candidate that decodes ends in the terminator (R141), so it is reported without a warning. -/
theorem terminatorWarning_of_decodeFrame_ok (c : Cfg) (raw : Bytes) (chk : Bool) (m : Message)
    (h : decodeFrame c raw chk = .ok m) : terminatorWarning c raw = [] := by
  obtain ⟨-, -, -, -, -, hterm, -⟩ :=
    (structuralError_eq_none_iff c raw).mp (structuralError_of_decodeFrame_ok c raw chk m h)
  exact if_neg (not_not.mpr hterm)

/-- The three lists `COMPLETE` can report: a frame, or a discard with or without the warning before it (R186). -/
theorem completeEvents_cases (c : Cfg) (raw : Bytes) :
    (∃ m, terminatorWarning c raw ++ [candidateEvent c raw] = [.frame raw m]) ∨
      ∃ e, terminatorWarning c raw ++ [candidateEvent c raw] = [.discarded e raw] ∨
        terminatorWarning c raw ++ [candidateEvent c raw] = [.missingTerminator, .discarded e raw] := by
  cases hd : decodeFrame c raw c.sfCheck with
  | ok m => exact .inl ⟨m, by simp [terminatorWarning_of_decodeFrame_ok c raw _ m hd, candidateEvent, hd]⟩
  | err e =>
    refine .inr ⟨e, ?_⟩
    simp only [candidateEvent, hd, terminatorWarning]
    split
    · exact .inr rfl
    · exact .inl rfl

end Sys2Proof.Machine
end

section
/-! `SF.FEED` under the invariant, by the state it is fed in (R182 to R186), and the event lists it returns in any state (R189). -/

namespace Sys2Proof.Machine

theorem exec_sfFeed (x : Byte) (s : State) : exec (.sfFeed x) s = finish (feed x s) := rfl

theorem feed_skip (x : Byte) (s : State) (hst : s.st = .seekingPrefix) (hx : x ≠ s.cfg.prefixByte) :
    feed x s = .ok (s, [.skip x]) := by
  rw [feed, hst]
  exact if_pos hx

theorem feed_prefix (x : Byte) (s : State) (hinv : s.Inv) (hst : s.st = .seekingPrefix) (hx : x = s.cfg.prefixByte) :
    feed x s = .ok ({ s.push x with st := .readingHeader }, []) := by
  simp [feed, hst, feedSeeking, hx, hinv.append_eq]

theorem feed_header_of_lt (x : Byte) (s : State) (hinv : s.Inv) (hst : s.st = .readingHeader) (hn : s.n.toNat < 3) :
    feed x s = .ok (s.push x, []) := by
  have hshort : (s.push x).n.toNat < hdrLen := by
    rw [s.push_n_toNat x hinv.n_lt_bufCap]
    exact Nat.succ_lt_succ hn
  simp only [feed, hst, feedHeader, hinv.append_eq, if_pos hshort]

theorem feed_header_fourth (x : Byte) (s : State) (hinv : s.Inv) (hst : s.st = .readingHeader) (hn : s.n.toNat = 3) :
    feed x s = checkHeader (s.push x) := by
  have hfull : ¬ (s.push x).n.toNat < hdrLen := by
    rw [s.push_n_toNat x hinv.n_lt_bufCap, hn]
    decide
  simp only [feed, hst, feedHeader, hinv.append_eq, if_neg hfull]

theorem feed_body (x : Byte) (s : State) (hinv : s.Inv) (hst : s.st = .readingBody) :
    feed x s =
      if s.rem = 1 then
        .ok (s.resync, terminatorWarning s.cfg (s.heldBytes ++ [x]) ++ [candidateEvent s.cfg (s.heldBytes ++ [x])])
      else .ok ({ s.push x with rem := s.rem - 1 }, []) := by
  obtain ⟨hrem, -⟩ := hinv.rem_and_n_of_body hst
  have hlast : s.rem - 1 = 0 ↔ s.rem = 1 := sub_eq_zero
  simp only [feed, hst, feedBody, if_neg hrem, hinv.append_eq, State.push_rem, hlast, hinv.complete_push]

/-- Settles O20: under the invariant the framer is at reset in `SEEKING_PREFIX`, so the byte `PREFIX` is stored at index 0. -/
theorem seekingSkipsOrStarts : Obligations.SeekingSkipsOrStarts := by
  intro s x hinv hst
  obtain ⟨-, hbuf, hn, -⟩ := hinv.atReset_of_seeking hst
  refine ⟨fun hx => by rw [exec_sfFeed, feed_skip x s hst hx]; rfl, fun hx => ?_⟩
  rw [exec_sfFeed, feed_prefix x s hinv hst hx]
  simp [finish, State.push, State.answer, hbuf, hn]

/-- Settles O21: a header byte is pushed, and the fourth is followed by `checkHeader` of the four bytes held; where they announce
no byte they are the candidate, too short to decode. -/
theorem headerBytesAreCollectedThenChecked : Obligations.HeaderBytesAreCollectedThenChecked := by
  intro s x hinv hst h l drop
  refine ⟨fun hn => by rw [exec_sfFeed, feed_header_of_lt x s hinv hst hn]; rfl, ?_⟩
  have hfour (hn : s.n.toNat = 3) : (s.push x).n.toNat = 4 := by rw [s.push_n_toNat x hinv.n_lt_bufCap, hn]
  have hgood (hpfx : byteAt h 0 = s.cfg.prefixByte) (hfmt : byteAt h 1 = s.cfg.formatByte) :
      ¬ (byteAt h 0 ≠ s.cfg.prefixByte ∨ byteAt h 1 ≠ s.cfg.formatByte) := by simp [hpfx, hfmt]
  have hfeed (hn : s.n.toNat = 3) := (feed_header_fourth x s hinv hst hn).trans
    (checkHeader_held _ (hinv.push_cells x) (hfour hn))
  simp only [State.push_heldBytes, State.push_cfg, State.push_resync] at hfeed
  refine ⟨fun hn hbad => ?_, fun hn hpfx hfmt hlen => ?_, fun hn hpfx hfmt hlen => ?_⟩
  · rw [exec_sfFeed, hfeed hn, if_pos hbad]
    rfl
  · have hn' : s.n = 3 := BitVec.eq_of_toNat_eq hn
    rw [exec_sfFeed, hfeed hn, if_neg (hgood hpfx hfmt), if_neg hlen]
    simp only [State.push, hn']
    rfl
  · have hlength : (s.heldBytes ++ [x]).length = 4 := by
      rw [← s.push_heldBytes, State.heldBytes_length _ (hinv.push_cells x), hfour hn]
    rw [exec_sfFeed, hfeed hn, if_neg (hgood hpfx hfmt), if_pos hlen,
      terminatorWarning_concat, candidateEvent_of_length_lt _ _ (by omega), hlength]
    rfl

/-- Settles O22: the byte that takes `rem` to 0 is the last of the candidate `COMPLETE` judges. -/
theorem bodyBytesAreCountedThenDecoded : Obligations.BodyBytesAreCountedThenDecoded := by
  intro s x hinv hst raw
  refine ⟨fun hrem => ?_, fun hrem => ?_⟩
  · rw [exec_sfFeed, feed_body x s hinv hst, if_neg hrem]
    rfl
  · rw [exec_sfFeed, feed_body x s hinv hst, if_pos hrem, terminatorWarning_concat]
    rfl

/-- Settles O23: of the four ends of a framer step only the completed candidate has more than one list. -/
theorem feedEventListsHaveSixShapes : Obligations.FeedEventListsHaveSixShapes := by
  intro s t x h
  obtain ⟨u, evs, hfeed, rfl⟩ := (finish_next _ _).mp h
  rw [State.answer_out]
  simp only [Output.events.injEq]
  cases (feed_cases x s u evs hfeed).1 with
  | skip _ _ _ he => exact .inr (.inl he)
  | keep _ _ _ _ _ he => exact .inl he
  | badHeader _ h _ he => exact .inr (.inr (.inl ⟨h, he⟩))
  | complete _ raw _ he =>
    rcases completeEvents_cases s.cfg raw with ⟨m, hframe⟩ | ⟨e, hdiscarded | hwarned⟩
    · exact .inr (.inr (.inr (.inl ⟨raw, m, he.trans hframe⟩)))
    · exact .inr (.inr (.inr (.inr (.inl ⟨e, raw, he.trans hdiscarded⟩))))
    · exact .inr (.inr (.inr (.inr (.inr ⟨e, raw, he.trans hwarned⟩))))

end Sys2Proof.Machine
end

section
/-! The MeasurementDecoder: the bytes of a record at its offsets (R221), their temperature as a signed integer and as a rational
(R222, R223), and the split of a temperature (R225). -/

namespace Sys2Proof.Machine

@[simp] theorem exec_mdecode (p : Bytes) (s : State) :
    exec (.mdecode p) s = .next { s with out := .points (decodePayload p) } := rfl

@[simp] theorem exec_tempsplit (v : BitVec 32) (s : State) :
    exec (.tempsplit v) s = .next { s with out := .split (tempSplit v) } := rfl

theorem byteAt_sliceOf (s : Bytes) (i j k : Nat) (h : i + k < j) : byteAt (sliceOf s i j) k = byteAt s (i + k) := by
  simp [byteAt, sliceOf, List.getD, h]

theorem recDec_sliceOf (p : Bytes) (i : Nat) :
    recDec (sliceOf p i (i + recLen)) =
      { channel := byteAt p i, powerFlag := byteAt p (i + 1), stateFlag := byteAt p (i + 2),
        tempRaw := temp32 (byteAt p (i + 3)) (byteAt p (i + 4)) (byteAt p (i + 5)) (byteAt p (i + 6)) } := by
  have hbyte (k : Nat) (hk : k < recLen) : byteAt (sliceOf p i (i + recLen)) k = byteAt p (i + k) :=
    byteAt_sliceOf p i _ k (Nat.add_lt_add_left hk i)
  rw [recDec, hbyte 0 (by decide), hbyte 1 (by decide), hbyte 2 (by decide), hbyte 3 (by decide), hbyte 4 (by decide),
    hbyte 5 (by decide), hbyte 6 (by decide), Nat.add_zero]

theorem decodePayload_of_length_mod_ne (p : Bytes) (h : p.length % 7 ≠ 0) :
    decodePayload p = .err (.truncatedRecord p.length) := if_pos h

theorem decodePayload_of_length_mod_eq (p : Bytes) (h : p.length % 7 = 0) :
    decodePayload p =
      .ok ((List.range (p.length / 7)).map fun k => recDec (sliceOf p (7 * k) (7 * k + recLen))) :=
  if_neg (not_not.mpr h)

/-- Settles O52: the length is judged first, and each seven-byte slice of the payload is read at its own offsets. -/
theorem mdecodeGivesOnePointPerRecord : Obligations.MdecodeGivesOnePointPerRecord := by
  intro s p
  refine ⟨rfl, fun hne => ?_, fun heq => ⟨_, by rw [exec_mdecode, decodePayload_of_length_mod_eq p heq], ?_, ?_⟩⟩
  · rw [exec_mdecode, decodePayload_of_length_mod_ne p hne]
  · rw [List.length_map, List.length_range]
    exact Nat.mul_div_cancel' (Nat.dvd_of_mod_eq_zero heq)
  · intro k hk
    rw [List.length_map, List.length_range] at hk
    rw [List.getElem?_map, List.getElem?_range hk, Option.map_some, recDec_sliceOf]

theorem sext32_toInt (u : Nat) (h : u < 4294967296) :
    (sext32 u).toInt = if u < 2147483648 then (u : Int) else (u : Int) - 4294967296 := by
  rw [sext32, BitVec.toInt_eq_toNat_cond, BitVec.toNat_ofNat, Nat.mod_eq_of_lt h]
  split_ifs <;> omega

/-- Settles O53: four bytes weigh less than `2^32`, so `sext_32` reads their weighted sum unreduced (R222). -/
theorem temperatureBytesArePermuted : Obligations.TemperatureBytesArePermuted := by
  intro w₀ w₁ w₂ w₃ u
  have hu : u < 4294967296 := by
    have := w₀.isLt
    have := w₁.isLt
    have := w₂.isLt
    have := w₃.isLt
    omega
  have hsum : w₁.toNat + 256 * w₀.toNat + 65536 * w₃.toNat + 16777216 * w₂.toNat = u := rfl
  rw [temp32, hsum]
  exact sext32_toInt u hu

theorem tempSplit_neg_iff (v : BitVec 32) : (tempSplit v).neg = true ↔ v.toInt < 0 := decide_eq_true_iff

/-- The magnitude of a 32-bit temperature is at most `2^31`. -/
theorem tempSplit_whole_le (v : BitVec 32) : (tempSplit v).whole ≤ 21474836 := by
  have hmag : v.toInt.natAbs ≤ 2147483648 := by
    have := v.le_toInt
    have := v.toInt_lt
    omega
  exact Nat.div_le_div_right (c := 100) hmag

theorem tempSplit_magnitude (v : BitVec 32) :
    100 * ((tempSplit v).whole : Int) + (tempSplit v).frac = v.toInt.natAbs :=
  mod_cast Nat.div_add_mod v.toInt.natAbs 100

/-- R225's law: sign times magnitude gives the temperature back. -/
theorem tempSplit_law (v : BitVec 32) :
    v.toInt = (if (tempSplit v).neg then -1 else 1) * (100 * ((tempSplit v).whole : Int) + (tempSplit v).frac) := by
  rw [tempSplit_magnitude]
  simp only [tempSplit_neg_iff]
  split_ifs <;> omega

/-- `-0` is no result: the parts of a negative temperature are not both zero (R225). -/
theorem tempSplit_pos_of_neg (v : BitVec 32) (h : (tempSplit v).neg = true) :
    0 < (tempSplit v).whole + (tempSplit v).frac := by
  have hv := (tempSplit_neg_iff v).mp h
  have hmag := tempSplit_magnitude v
  omega

/-- Settles O55: whole and hundredths are quotient and remainder of the magnitude, so they weigh up to it again. -/
theorem tempsplitSignAndMagnitude : Obligations.TempsplitSignAndMagnitude := fun s v =>
  have hfrac : (tempSplit v).frac < 100 := Nat.mod_lt _ (by decide)
  ⟨rfl, tempSplit v, exec_tempsplit v s, tempSplit_neg_iff v, rfl, rfl, Nat.le_of_lt_succ hfrac, tempSplit_whole_le v,
    tempSplit_law v, tempSplit_pos_of_neg v, rfl⟩

theorem temperature_mul_scale (p : Point) : temperature p * 100 = (p.tempRaw.toInt : Rat) :=
  div_mul_cancel₀ _ (by norm_num)

theorem temperature_le_iff (p q : Point) : temperature p ≤ temperature q ↔ p.tempRaw.toInt ≤ q.tempRaw.toInt := by
  rw [← Int.cast_le (R := Rat), ← temperature_mul_scale, ← temperature_mul_scale]
  exact (mul_le_mul_iff_left₀ (by norm_num)).symm

/-- Settles O56: the scale is positive, so the rational order is that of the signed integers, and equality is both orders. -/
theorem temperaturesCompareAsRaw : Obligations.TemperaturesCompareAsRaw := by
  refine fun p q => ⟨?_, temperature_le_iff p q, temperature_mul_scale p⟩
  rw [le_antisymm_iff, temperature_le_iff, temperature_le_iff, ← le_antisymm_iff, BitVec.toInt_inj]

end Sys2Proof.Machine
end

section
/-! What every `SF.FEED` does under the invariant (R35), said once: `feed_held_cases`. -/

namespace Sys2Proof.Machine

theorem State.atReset.inv {s : State} (h : s.atReset) : s.Inv := by
  obtain ⟨hst, hbuf, hn, hrem⟩ := h
  refine ⟨by simp [hbuf, hn], ?_⟩
  rw [State.stateInv, hst]
  exact ⟨hn, hrem⟩

theorem State.atReset.heldBytes_eq {s : State} (h : s.atReset) : s.heldBytes = [] := by
  obtain ⟨-, hbuf, -, -⟩ := h
  rw [State.heldBytes, hbuf, List.map_nil]

theorem State.stateInv_of_header {s : State} (hst : s.st = .readingHeader) :
    s.stateInv ↔ 1 ≤ s.n.toNat ∧ s.n.toNat ≤ 3 ∧ s.rem = 0 ∧ byteAt s.heldBytes 0 = s.cfg.prefixByte := by
  rw [State.stateInv, hst]

theorem State.stateInv_of_body {s : State} (hst : s.st = .readingBody) :
    s.stateInv ↔
      4 ≤ s.n.toNat ∧ 1 ≤ s.rem.toNat ∧ byteAt s.heldBytes 0 = s.cfg.prefixByte ∧
        byteAt s.heldBytes 1 = s.cfg.formatByte ∧
        s.n.toNat + s.rem.toNat = 4 + u16be (byteAt s.heldBytes 2) (byteAt s.heldBytes 3) := by
  rw [State.stateInv, hst]

/-- The state after a byte that is stored and leaves the framer reading: in state `st'`, with `r` bytes to come. -/
def State.pushTo (s : State) (x : Byte) (st' : St) (r : BitVec 16) : State := { s.push x with st := st', rem := r }

@[simp] theorem State.pushTo_st (s : State) (x : Byte) (st' : St) (r : BitVec 16) : (s.pushTo x st' r).st = st' := rfl

@[simp] theorem State.pushTo_rem (s : State) (x : Byte) (st' : St) (r : BitVec 16) : (s.pushTo x st' r).rem = r := rfl

@[simp] theorem State.pushTo_heldBytes (s : State) (x : Byte) (st' : St) (r : BitVec 16) :
    (s.pushTo x st' r).heldBytes = s.heldBytes ++ [x] := s.push_heldBytes x

theorem State.Inv.pushTo_n {s : State} (h : s.Inv) (x : Byte) (st' : St) (r : BitVec 16) :
    (s.pushTo x st' r).n.toNat = s.n.toNat + 1 := s.push_n_toNat x h.n_lt_bufCap

theorem State.Inv.pushTo_header {s : State} (h : s.Inv) (x : Byte) (hn : s.n.toNat < 3)
    (hfirst : byteAt (s.heldBytes ++ [x]) 0 = s.cfg.prefixByte) : (s.pushTo x .readingHeader 0).Inv := by
  refine ⟨h.push_cells x, (State.stateInv_of_header rfl).mpr ?_⟩
  rw [h.pushTo_n, State.pushTo_heldBytes]
  exact ⟨by omega, hn, rfl, hfirst⟩

theorem State.Inv.pushTo_body {s : State} (h : s.Inv) (x : Byte) (r : BitVec 16) (hn : 3 ≤ s.n.toNat) (hr : 1 ≤ r.toNat)
    (hfirst : byteAt (s.heldBytes ++ [x]) 0 = s.cfg.prefixByte)
    (hsecond : byteAt (s.heldBytes ++ [x]) 1 = s.cfg.formatByte)
    (hsum : s.n.toNat + 1 + r.toNat = 4 + u16be (byteAt (s.heldBytes ++ [x]) 2) (byteAt (s.heldBytes ++ [x]) 3)) :
    (s.pushTo x .readingBody r).Inv := by
  refine ⟨h.push_cells x, (State.stateInv_of_body rfl).mpr ?_⟩
  rw [h.pushTo_n, State.pushTo_heldBytes]
  exact ⟨by omega, hr, hfirst, hsecond, hsum⟩

/-- The bytes are a whole frame as their header announces it: `PREFIX`, `FORMAT`, and as many body bytes as the length field says
(R94). -/
structure Announced (c : Cfg) (raw : Bytes) : Prop where
  prefixByte : byteAt raw 0 = c.prefixByte
  formatByte : byteAt raw 1 = c.formatByte
  length_eq : raw.length = 4 + u16be (byteAt raw 2) (byteAt raw 3)

/-- The events of `COMPLETE` (R186). -/
def completeEvents (c : Cfg) (raw : Bytes) : List Event := terminatorWarning c raw ++ [candidateEvent c raw]

/-- The four ends of `SF.FEED(x)` under the invariant: those of `FeedEnd`, with the state and the bytes held named. -/
inductive HeldFeedEnd (x : Byte) (s : State) : Prop where
  | skip (hst : s.st = .seekingPrefix) (h : feed x s = .ok (s, [.skip x]))
  | keep (st' : St) (r : BitVec 16) (hinv : (s.pushTo x st' r).Inv) (h : feed x s = .ok (s.pushTo x st' r, []))
  | badHeader (h : feed x s = .ok (s.resync, [.badHeader (s.heldBytes ++ [x])]))
  | complete (hraw : Announced s.cfg (s.heldBytes ++ [x]))
      (h : feed x s = .ok (s.resync, completeEvents s.cfg (s.heldBytes ++ [x])))

/-- A byte held stays where it is when another is pushed. -/
theorem State.Inv.byteAt_push {s : State} (h : s.Inv) (x : Byte) (i : Nat) (hi : i < s.n.toNat) :
    byteAt (s.heldBytes ++ [x]) i = byteAt s.heldBytes i :=
  byteAt_append_left _ _ _ (by rwa [s.heldBytes_length h.cells])

theorem feed_held_cases_seeking (x : Byte) (s : State) (hinv : s.Inv) (hst : s.st = .seekingPrefix) :
    HeldFeedEnd x s := by
  by_cases hx : x = s.cfg.prefixByte
  · have hreset := hinv.atReset_of_seeking hst
    have hheld := hreset.heldBytes_eq
    obtain ⟨-, -, hn, hrem⟩ := hreset
    refine .keep .readingHeader 0 (hinv.pushTo_header x (by simp [hn]) (by simpa [hheld] using hx)) ?_
    rw [feed_prefix x s hinv hst hx, State.pushTo, ← hrem]
    rfl
  · exact .skip hst (feed_skip x s hst hx)

theorem feed_held_cases_header (x : Byte) (s : State) (hinv : s.Inv) (hst : s.st = .readingHeader) :
    HeldFeedEnd x s := by
  obtain ⟨hlo, hhi, hrem, hfirst⟩ := (State.stateInv_of_header hst).mp hinv.2
  rw [← hinv.byteAt_push x 0 hlo] at hfirst
  rcases Nat.lt_or_eq_of_le hhi with hlt | heq
  · refine .keep .readingHeader 0 (hinv.pushTo_header x hlt hfirst) ?_
    rw [feed_header_of_lt x s hinv hst hlt, State.pushTo, ← hrem, ← hst]
    rfl
  · have hlength : (s.heldBytes ++ [x]).length = 4 := by
      rw [List.length_append, s.heldBytes_length hinv.cells, heq, List.length_singleton]
    have hfour : (s.push x).n.toNat = 4 := by rw [s.push_n_toNat x hinv.n_lt_bufCap, heq]
    have hfeed := (feed_header_fourth x s hinv hst heq).trans (checkHeader_held _ (hinv.push_cells x) hfour)
    simp only [State.push_heldBytes, State.push_cfg, State.push_resync] at hfeed
    split_ifs at hfeed with hbad hzero
    · exact .badHeader hfeed
    · obtain ⟨-, hformat⟩ := not_or.mp hbad
      exact .complete ⟨hfirst, not_not.mp hformat, by rw [hlength, hzero]⟩ hfeed
    · obtain ⟨-, hformat⟩ := not_or.mp hbad
      have hlen := u16be_lt (byteAt (s.heldBytes ++ [x]) 2) (byteAt (s.heldBytes ++ [x]) 3)
      have hr := (BitVec.toNat_ofNat _ 16).trans (Nat.mod_eq_of_lt hlen)
      exact .keep _ _ (hinv.pushTo_body x _ heq.ge (by omega) hfirst (not_not.mp hformat) (by omega)) hfeed

theorem feed_held_cases_body (x : Byte) (s : State) (hinv : s.Inv) (hst : s.st = .readingBody) :
    HeldFeedEnd x s := by
  obtain ⟨hn, hrem, hfirst, hsecond, hsum⟩ := (State.stateInv_of_body hst).mp hinv.2
  rw [← hinv.byteAt_push x 2 (by omega), ← hinv.byteAt_push x 3 (by omega)] at hsum
  rw [← hinv.byteAt_push x _ (by omega)] at hfirst hsecond
  have hfeed := feed_body x s hinv hst
  split_ifs at hfeed with hlast
  · refine .complete ⟨hfirst, hsecond, ?_⟩ hfeed
    rw [← hsum, List.length_append, s.heldBytes_length hinv.cells, hlast]
    rfl
  · have hrem' : (s.rem - 1).toNat + 1 = s.rem.toNat ∧ s.rem.toNat ≠ 1 := by bv_omega
    refine .keep .readingBody (s.rem - 1) (hinv.pushTo_body x _ (by omega) (by omega) hfirst hsecond (by omega)) ?_
    rw [hfeed, State.pushTo, ← hst]
    rfl

/-- Under the invariant every framer step ends in one of the four ways, in a state that the rules name. -/
theorem feed_held_cases (x : Byte) (s : State) (hinv : s.Inv) : HeldFeedEnd x s := by
  cases hst : s.st with
  | seekingPrefix => exact feed_held_cases_seeking x s hinv hst
  | readingHeader => exact feed_held_cases_header x s hinv hst
  | readingBody => exact feed_held_cases_body x s hinv hst

end Sys2Proof.Machine
end

section
/-! `SF.FEED` and runs of bytes under the invariant: they complete, keep it, and account for every byte (R35, R263). -/

namespace Sys2Proof.Machine

/-- The events of `COMPLETE` account for the candidate's bytes, once (R263). -/
theorem completeEvents_flatMap_eventBytes (c : Cfg) (raw : Bytes) : (completeEvents c raw).flatMap eventBytes = raw := by
  rw [completeEvents]
  rcases completeEvents_cases c raw with ⟨m, h⟩ | ⟨e, h | h⟩
  all_goals
    rw [h]
    simp [eventBytes]

/-- One byte under the invariant: the step completes, keeps the invariant, and the byte is held or in an event. -/
theorem feed_accounted (x : Byte) (s : State) (hinv : s.Inv) :
    ∃ (t : State) (evs : List Event), feed x s = .ok (t, evs) ∧ t.Inv ∧
      s.heldBytes ++ [x] = evs.flatMap eventBytes ++ t.heldBytes := by
  have hdropped : s.resync.heldBytes = [] := s.resync_atReset.heldBytes_eq
  cases feed_held_cases x s hinv with
  | skip hst h => exact ⟨s, _, h, hinv, by simp [eventBytes, (hinv.atReset_of_seeking hst).heldBytes_eq]⟩
  | keep st' r hinv' h => exact ⟨_, _, h, hinv', by simp⟩
  | badHeader h => exact ⟨_, _, h, s.resync_atReset.inv, by simp [eventBytes, hdropped]⟩
  | complete hraw h =>
    exact ⟨_, _, h, s.resync_atReset.inv, by rw [completeEvents_flatMap_eventBytes, hdropped, List.append_nil]⟩

theorem State.Inv.of_feed {s t : State} {x : Byte} {evs : List Event} (hinv : s.Inv) (h : feed x s = .ok (t, evs)) :
    t.Inv := by
  obtain ⟨u, evs', hfeed, hu, -⟩ := feed_accounted x s hinv
  rw [h] at hfeed
  cases hfeed
  exact hu

/-- Settles O27, by induction on the bytes: what a step leaves held is what the rest of the run begins with. -/
theorem everyFedByteIsAccountedFor : Obligations.EveryFedByteIsAccountedFor := by
  intro s bs
  induction bs generalizing s with
  | nil => exact fun hinv => ⟨s, [], feedAll_nil s, hinv, by simp⟩
  | cons x xs ih =>
    intro hinv
    obtain ⟨t, evs, hfeed, ht, hbytes⟩ := feed_accounted x s hinv
    obtain ⟨u, more, hrun, hu, hrest⟩ := ih t ht
    refine ⟨u, evs ++ more, (feedAll_cons x xs s u _).mpr ⟨t, evs, more, hfeed, hrun, rfl⟩, hu, ?_⟩
    calc s.heldBytes ++ x :: xs = (s.heldBytes ++ [x]) ++ xs := by simp
      _ = evs.flatMap eventBytes ++ (t.heldBytes ++ xs) := by rw [hbytes, List.append_assoc]
      _ = (evs ++ more).flatMap eventBytes ++ u.heldBytes := by rw [hrest, List.flatMap_append, List.append_assoc]

theorem State.Inv.of_feedAll {s t : State} {bs : Bytes} {evs : List Event} (hinv : s.Inv)
    (h : feedAll bs s = .ok (t, evs)) : t.Inv := by
  obtain ⟨u, evs', hrun, hu, -⟩ := everyFedByteIsAccountedFor s bs hinv
  rw [h] at hrun
  cases hrun
  exact hu

/-- A run writes neither the configuration nor the results nor the requests. -/
theorem feedAll_untouched (bs : Bytes) (s t : State) (evs : List Event) (h : feedAll bs s = .ok (t, evs)) :
    t.cfg = s.cfg ∧ t.out = s.out ∧ t.pending = s.pending := by
  induction bs generalizing s evs with
  | nil => cases h; exact ⟨rfl, rfl, rfl⟩
  | cons x xs ih =>
    obtain ⟨u, ev, more, hfeed, hrun, -⟩ := (feedAll_cons x xs s t evs).mp h
    obtain ⟨hcfg, hout, hpending⟩ := ih u more hrun
    obtain ⟨hcfg', hout', hpending'⟩ := feed_untouched x s u ev hfeed
    exact ⟨hcfg.trans hcfg', hout.trans hout', hpending.trans hpending'⟩

/-- Settles O28, by induction on the first part. -/
theorem runsSplitAnywhere : Obligations.RunsSplitAnywhere := by
  intro a b s u evs
  induction a generalizing s evs with
  | nil => simp
  | cons x xs ih =>
    simp only [List.cons_append, feedAll_cons, ih]
    constructor
    · rintro ⟨t, ev, -, hfeed, ⟨v, e₁, e₂, hxs, hb, rfl⟩, rfl⟩
      exact ⟨v, ev ++ e₁, e₂, ⟨t, ev, e₁, hfeed, hxs, rfl⟩, hb, (List.append_assoc _ _ _).symm⟩
    · rintro ⟨v, -, e₂, ⟨t, ev, e₁, hfeed, hxs, rfl⟩, hb, rfl⟩
      exact ⟨t, ev, e₁ ++ e₂, hfeed, ⟨v, e₁, e₂, hxs, hb, rfl⟩, List.append_assoc _ _ _⟩

theorem feedAll_singleton (x : Byte) (s : State) : feedAll [x] s = feed x s := by
  simp only [feedAll]
  split
  · exact Eq.symm ‹_›
  · simpa using Eq.symm ‹_›

/-- Settles O30, by induction on the bytes: while `rem` is not 1 a body byte is only stored and counted (R185). -/
theorem bodyBytesAreNeverInspected : Obligations.BodyBytesAreNeverInspected := by
  intro s bs
  induction bs generalizing s with
  | nil => exact fun _ hst _ => ⟨s, rfl, hst, rfl, (List.append_nil _).symm⟩
  | cons x xs ih =>
    intro hinv hst hlen
    rw [List.length_cons] at hlen
    have hrem : s.rem ≠ 1 ∧ (s.rem - 1).toNat + 1 = s.rem.toNat := by bv_omega
    obtain ⟨hlast, hcount⟩ := hrem
    have hfeed := (feed_body x s hinv hst).trans (if_neg hlast)
    obtain ⟨t, hrun, htst, htrem, htheld⟩ := ih { s.push x with rem := s.rem - 1 } (hinv.of_feed hfeed) hst
      (by simp only; omega)
    refine ⟨t, (feedAll_cons _ _ _ _ _).mpr ⟨_, _, _, hfeed, hrun, rfl⟩, htst, ?_, ?_⟩
    · rw [List.length_cons]
      simp only at htrem
      omega
    · rw [htheld, show State.heldBytes { s.push x with rem := s.rem - 1 } = s.heldBytes ++ [x] from s.push_heldBytes x,
        List.append_assoc, List.singleton_append]

end Sys2Proof.Machine
end

section
/-! The three forms of an instruction: it feeds bytes to the framer, it is `SF.RESET`, or it only answers (R42); and what follows for
every instruction and every step. -/

namespace Sys2Proof.Machine

/-- The instruction runs the framer over bytes. -/
theorem exec_of_feedsFramer (i : Instr) (h : feedsFramer i = true) :
    ∃ bs : Bytes, ∀ s, exec i s = finish (feedAll bs s) :=
  match i, h with
  | .sfFeed x, _ => ⟨[x], fun s => by rw [feedAll_singleton, exec_sfFeed]⟩
  | .wireFrameEmpty _ _ _ _ _ _ _, _ => ⟨_, fun _ => rfl⟩
  | .wireHeader _ _ _ _, _ => ⟨_, fun _ => rfl⟩

/-- The instruction only hands out a result, read from `PREFIX`, `FORMAT` and `TERM` at most (R42, R255). -/
structure OnlyAnswers (i : Instr) (result : Cfg → Output) : Prop where
  exec_eq : ∀ s, exec i s = .next { s with out := result s.cfg }
  codec : ∀ c d : Cfg, c.prefixByte = d.prefixByte ∧ c.formatByte = d.formatByte ∧ c.termByte = d.termByte →
    result c = result d
  const : (∀ m : Message, i ≠ .encode m) ∧ (∀ (b : Bytes) (chk : Bool), i ≠ .decode b chk) →
    ∀ c d, result c = result d

theorem exists_onlyAnswers_of_const {i : Instr} (o : Output) (h : ∀ s, exec i s = .next { s with out := o }) :
    ∃ result, OnlyAnswers i result :=
  ⟨fun _ => o, h, fun _ _ _ => rfl, fun _ _ _ => rfl⟩

theorem encodeFrame_congr (c d : Cfg) (m : Message)
    (h : c.prefixByte = d.prefixByte ∧ c.formatByte = d.formatByte ∧ c.termByte = d.termByte) :
    encodeFrame c m = encodeFrame d m := by
  obtain ⟨hprefix, hformat, hterm⟩ := h
  simp only [encodeFrame, frameHead, hprefix, hformat, hterm]

theorem decodeFrame_congr (c d : Cfg) (b : Bytes) (chk : Bool)
    (h : c.prefixByte = d.prefixByte ∧ c.formatByte = d.formatByte ∧ c.termByte = d.termByte) :
    decodeFrame c b chk = decodeFrame d b chk := by
  obtain ⟨hprefix, hformat, hterm⟩ := h
  simp only [decodeFrame, structuralError, hprefix, hformat, hterm]

theorem exec_onlyAnswers (i : Instr) (hfeeds : feedsFramer i = false) (hreset : i ≠ .sfReset) :
    ∃ result, OnlyAnswers i result := by
  cases i with
  | encode m =>
    exact ⟨fun c => .encoded (encodeFrame c m), exec_encode m, fun c d h => by rw [encodeFrame_congr c d m h],
      fun h => absurd rfl (h.1 m)⟩
  | decode b chk =>
    exact ⟨fun c => .decoded (decodeFrame c b chk), exec_decode b chk, fun c d h => by rw [decodeFrame_congr c d b chk h],
      fun h => absurd rfl (h.2 b chk)⟩
  | sfReset => exact absurd rfl hreset
  | sfFeed x => cases hfeeds
  | wireFrameEmpty => cases hfeeds
  | wireHeader => cases hfeeds
  | _ => exact exists_onlyAnswers_of_const _ fun _ => rfl

/-- The form of an instruction. -/
inductive ExecForm (i : Instr) : Prop where
  | feeds (bs : Bytes) (h : ∀ s, exec i s = finish (feedAll bs s))
  | resets (h : i = .sfReset)
  | answers (result : Cfg → Output) (h : OnlyAnswers i result)

theorem exec_form (i : Instr) : ExecForm i := by
  cases hfeeds : feedsFramer i with
  | true =>
    obtain ⟨bs, h⟩ := exec_of_feedsFramer i hfeeds
    exact .feeds bs h
  | false =>
    by_cases hreset : i = .sfReset
    · exact .resets hreset
    · obtain ⟨result, h⟩ := exec_onlyAnswers i hfeeds hreset
      exact .answers result h

/-- Settles O17: both ends answer the same result, which at most the three fields the codec reads decide. -/
theorem pureOperationsOnlyAnswer : Obligations.PureOperationsOnlyAnswer := by
  intro i s t hfeeds hreset hreads
  obtain ⟨result, h⟩ := exec_onlyAnswers i hfeeds hreset
  have hsame : result s.cfg = result t.cfg := hreads.elim (h.codec s.cfg t.cfg) fun hother => h.const hother s.cfg t.cfg
  exact ⟨result s.cfg, h.exec_eq s, hsame ▸ h.exec_eq t⟩

/-- No instruction writes the configuration or the requests still pending (R36, log 1). -/
theorem exec_untouched (i : Instr) (s t : State) (h : exec i s = .next t) : t.cfg = s.cfg ∧ t.pending = s.pending := by
  cases exec_form i with
  | feeds bs hexec =>
    obtain ⟨u, evs, hrun, rfl⟩ := (finish_next _ _).mp ((hexec s).symm.trans h)
    obtain ⟨hcfg, -, hpending⟩ := feedAll_untouched bs s u evs hrun
    exact ⟨hcfg, hpending⟩
  | resets hi =>
    rw [hi, exec_sfReset] at h
    cases h
    exact ⟨rfl, rfl⟩
  | answers result hanswers =>
    rw [hanswers.exec_eq] at h
    cases h
    exact ⟨rfl, rfl⟩

/-- Settles O12: a run completes under the invariant (O27), and the other two forms complete in every state. -/
theorem everyInstructionCompletes : Obligations.EveryInstructionCompletes := by
  intro i s hinv
  have hnext : ∃ t, exec i s = .next t ∧ t.Inv := by
    cases exec_form i with
    | feeds bs h =>
      obtain ⟨t, evs, hrun, ht, -⟩ := everyFedByteIsAccountedFor s bs hinv
      exact ⟨t.answer (.events evs), by rw [h, hrun, finish], ht⟩
    | resets h => exact ⟨s.resync.answer (.events []), h ▸ exec_sfReset s, s.resync_atReset.inv⟩
    | answers result h => exact ⟨_, h.exec_eq s, hinv⟩
  obtain ⟨t, hexec, ht⟩ := hnext
  exact ⟨t, hexec, ht, exec_untouched i s t hexec⟩

/-- A step that answers a next state found no request, or executed one. -/
theorem step_next_cases (s t : State) (h : step s = .next t) :
    t = s.answer .nothing ∨ ∃ (rest : List Request) (i : Instr), exec i { s with pending := rest } = .next t := by
  rw [step] at h
  rcases s.fetch_cases with ⟨-, hf⟩ | ⟨r, rest, -, hf⟩ <;> simp only [hf] at h
  · cases h
    exact .inl rfl
  · split at h
    · exact .inr ⟨rest, _, h⟩
    · cases h

/-- A step that faults executed a request. -/
theorem step_fault (s : State) (f : Fault) (h : step s = .fault f) :
    ∃ (rest : List Request) (i : Instr), exec i { s with pending := rest } = .fault f := by
  rw [step] at h
  rcases s.fetch_cases with ⟨-, hf⟩ | ⟨r, rest, -, hf⟩ <;> simp only [hf] at h
  · cases h
  · split at h
    · exact ⟨rest, _, h⟩
    · cases h

/-- Settles O10: the invariant does not look at the requests, and every instruction keeps it (O12). -/
theorem stepKeepsFramerInvariant : Obligations.StepKeepsFramerInvariant := by
  intro s t hinv h
  rcases step_next_cases s t h with rfl | ⟨rest, i, hexec⟩
  · exact hinv
  · obtain ⟨u, hu, huinv, -⟩ := everyInstructionCompletes i { s with pending := rest } hinv
    rw [hexec] at hu
    cases hu
    exact huinv

/-- Settles O11: the instruction of a faulting step would not complete, against O12. -/
theorem noStepFaultsUnderInvariant : Obligations.NoStepFaultsUnderInvariant := by
  intro s f hinv h
  obtain ⟨rest, i, hexec⟩ := step_fault s f h
  obtain ⟨u, hu, -⟩ := everyInstructionCompletes i { s with pending := rest } hinv
  rw [hexec] at hu
  cases hu

/-- Settles O9: reset is the reset state of the framer, which meets the invariant for every configuration. -/
theorem resetSatisfiesInvariant : Obligations.ResetSatisfiesInvariant := fun c => (State.resetWith_atReset c).inv

theorem feedAll_wf (bs : Bytes) (s t : State) (evs : List Event) (hs : s.buf.wf = true)
    (h : feedAll bs s = .ok (t, evs)) : t.buf.wf = true := by
  induction bs generalizing s evs with
  | nil => cases h; exact hs
  | cons x xs ih =>
    obtain ⟨u, ev, more, hfeed, hrun, -⟩ := (feedAll_cons x xs s t evs).mp h
    refine ih u more ?_ hrun
    obtain ⟨hend, hroom⟩ := feed_cases x s u ev hfeed
    cases hend with
    | skip _ _ ht _ => exact ht ▸ hs
    | keep hx _ _ _ ht _ => exact ht ▸ Memory.wf_write _ _ _ hs (hroom hx)
    | badHeader _ _ ht _ => exact ht ▸ s.resync_wf
    | complete _ _ ht _ => exact ht ▸ s.resync_wf

/-- Settles O13: a byte is stored inside `BUF` only, or every cell is dropped. -/
theorem stepKeepsBufferCanonical : Obligations.StepKeepsBufferCanonical := by
  intro s t hs h
  rcases step_next_cases s t h with rfl | ⟨rest, i, hexec⟩
  · exact hs
  · cases exec_form i with
    | feeds bs hi =>
      obtain ⟨u, evs, hrun, rfl⟩ := (finish_next _ _).mp ((hi _).symm.trans hexec)
      exact feedAll_wf bs { s with pending := rest } u evs hs hrun
    | resets hi =>
      rw [hi, exec_sfReset] at hexec
      cases hexec
      exact s.resync_wf
    | answers result hi =>
      rw [hi.exec_eq] at hexec
      cases hexec
      exact hs

/-- Settles O14, the runs by induction on their steps. -/
theorem noOperationWritesConfiguration : Obligations.NoOperationWritesConfiguration := by
  refine ⟨fun i s t h => (exec_untouched i s t h).1, fun s t h => ?_⟩
  induction h with
  | refl => rfl
  | step _ hstep ih =>
    rcases step_next_cases _ _ hstep with rfl | ⟨rest, i, hexec⟩
    · exact ih
    · exact (exec_untouched i _ _ hexec).1.trans ih

end Sys2Proof.Machine
end

section
/-! The framer's registers run the same in other surroundings: the results, the requests and the fields of `CFG` that the framer does
not read never decide a step (R36, R253). -/

namespace Sys2Proof.Machine

/-- The framer's registers of `s` where the rest of the state is `w`'s. -/
def State.within (s w : State) : State := { w with st := s.st, buf := s.buf, n := s.n, rem := s.rem }

@[simp] theorem State.within_cfg (s w : State) : (s.within w).cfg = w.cfg := rfl

/-- The end of a framer step, its registers put into the surroundings `w`. -/
def FramerStep.within (r : FramerStep) (w : State) : FramerStep := r.map fun p => (p.1.within w, p.2)

@[simp] theorem FramerStep.within_ok (t w : State) (evs : List Event) :
    FramerStep.within (.ok (t, evs)) w = .ok (t.within w, evs) := rfl

@[simp] theorem FramerStep.within_error (f : Fault) (w : State) : FramerStep.within (.error f) w = .error f := rfl

/-- The two configurations differ at most in the address constants, which nothing reads (R36). -/
structure SameReadCfg (c d : Cfg) : Prop where
  codec : c.prefixByte = d.prefixByte ∧ c.formatByte = d.formatByte ∧ c.termByte = d.termByte
  sfCheck : c.sfCheck = d.sfCheck

theorem completeEvents_congr (c d : Cfg) (raw : Bytes) (h : SameReadCfg c d) :
    completeEvents c raw = completeEvents d raw := by
  obtain ⟨hcodec, hcheck⟩ := h
  obtain ⟨-, -, hterm⟩ := id hcodec
  simp only [completeEvents, terminatorWarning, candidateEvent, decodeFrame_congr c d raw _ hcodec, hcheck, hterm]

theorem append_within (x : Byte) (s w : State) :
    (s.within w).append x = (s.append x).map fun t => t.within w := by
  rcases s.append_cases x with ⟨hn, h⟩ | ⟨hn, h⟩ <;> rw [h]
  · exact if_pos hn
  · exact if_neg hn.not_gt

theorem complete_within (s w : State) (h : SameReadCfg s.cfg w.cfg) :
    complete (s.within w) = FramerStep.within (complete s) w := by
  have hpart : (s.within w).bufPart (s.within w).n.toNat = s.bufPart s.n.toNat := rfl
  unfold complete
  rw [hpart]
  cases s.bufPart s.n.toNat with
  | error f => rfl
  | ok raw => exact congrArg (fun evs => Except.ok (s.resync.within w, evs)) (completeEvents_congr _ _ raw h).symm

theorem checkHeader_within (s w : State) (h : SameReadCfg s.cfg w.cfg) :
    checkHeader (s.within w) = FramerStep.within (checkHeader s) w := by
  obtain ⟨hprefix, hformat, -⟩ := h.codec
  have hpart : (s.within w).bufPart hdrLen = s.bufPart hdrLen := rfl
  unfold checkHeader
  rw [hpart]
  cases s.bufPart hdrLen with
  | error f => rfl
  | ok raw =>
    simp only [State.within_cfg, ← hprefix, ← hformat]
    split_ifs
    · rfl
    · exact complete_within { s with rem := _ } w h
    · rfl

theorem feedSeeking_within (x : Byte) (s w : State) (h : SameReadCfg s.cfg w.cfg) :
    feedSeeking x (s.within w) = (feedSeeking x s).within w := by
  obtain ⟨hprefix, -⟩ := h.codec
  simp only [feedSeeking, append_within, State.within_cfg, ← hprefix]
  split_ifs
  · rfl
  · cases s.append x <;> rfl

theorem feedHeader_within (x : Byte) (s w : State) (h : SameReadCfg s.cfg w.cfg) :
    feedHeader x (s.within w) = (feedHeader x s).within w := by
  simp only [feedHeader, append_within]
  rcases s.append_cases x with ⟨-, ha⟩ | ⟨-, ha⟩ <;> simp only [ha, Except.map]
  · have hn (t : State) : (t.within w).n = t.n := rfl
    rw [hn]
    split_ifs
    · rfl
    · exact checkHeader_within { s with buf := _, n := _ } w h
  · rfl

theorem feedBody_within (x : Byte) (s w : State) (h : SameReadCfg s.cfg w.cfg) :
    feedBody x (s.within w) = (feedBody x s).within w := by
  have hrem (t : State) : (t.within w).rem = t.rem := rfl
  simp only [feedBody, append_within, hrem]
  split_ifs
  · rfl
  · rcases s.append_cases x with ⟨-, ha⟩ | ⟨-, ha⟩ <;> simp only [ha, Except.map, hrem]
    · split_ifs
      · exact complete_within { s with buf := _, n := _, rem := _ } w h
      · rfl
    · rfl

/-- A framer step in other surroundings is the same step. -/
theorem feed_within (x : Byte) (s w : State) (h : SameReadCfg s.cfg w.cfg) :
    feed x (s.within w) = (feed x s).within w := by
  have hst' : (s.within w).st = s.st := rfl
  rw [feed, feed, hst']
  cases s.st with
  | seekingPrefix => exact feedSeeking_within x s w h
  | readingHeader => exact feedHeader_within x s w h
  | readingBody => exact feedBody_within x s w h

/-- A run in other surroundings is the same run. -/
theorem feedAll_within (bs : Bytes) (s w : State) (h : SameReadCfg s.cfg w.cfg) :
    feedAll bs (s.within w) = (feedAll bs s).within w := by
  induction bs generalizing s with
  | nil => rfl
  | cons x xs ih =>
    rw [feedAll, feedAll, feed_within x s w h]
    cases hfeed : feed x s with
    | error f => rfl
    | ok p =>
      obtain ⟨t, evs⟩ := p
      obtain ⟨hcfg, -, -⟩ := feed_untouched x s t evs hfeed
      simp only [FramerStep.within_ok, ih t (hcfg ▸ h)]
      cases feedAll xs t with
      | error f => rfl
      | ok q => rfl

theorem SameReadCfg.refl (c : Cfg) : SameReadCfg c c := ⟨⟨rfl, rfl, rfl⟩, rfl⟩

/-- Settles O16: a run hands out its events over whatever the results were, and the other forms read no results either. -/
theorem earlierResultsNeverMatter : Obligations.EarlierResultsNeverMatter := by
  intro i s o
  cases exec_form i with
  | feeds bs h =>
    have hrun : feedAll bs { s with out := o } = (feedAll bs s).within { s with out := o } :=
      feedAll_within bs s { s with out := o } (.refl _)
    rw [h, h, hrun]
    cases hs : feedAll bs s with
    | error f => rfl
    | ok p =>
      obtain ⟨t, evs⟩ := p
      obtain ⟨hcfg, -, hpending⟩ := feedAll_untouched bs s t evs hs
      simp only [FramerStep.within_ok, finish, State.within, State.answer, hcfg, hpending]
  | resets h => rw [h]; rfl
  | answers result h => rw [h.exec_eq, h.exec_eq]

/-- Settles O15: the framer runs the same beside other address constants, and a result is read from the codec's fields. -/
theorem addressConstantsAreNeverRead : Obligations.AddressConstantsAreNeverRead := by
  intro i s t a d h
  have hread : SameReadCfg s.cfg { s.cfg with addrBroadcast := a, addrDefault := d } := ⟨⟨rfl, rfl, rfl⟩, rfl⟩
  cases exec_form i with
  | feeds bs hi =>
    obtain ⟨u, evs, hrun, rfl⟩ := (finish_next _ _).mp ((hi s).symm.trans h)
    obtain ⟨hcfg, hout, hpending⟩ := feedAll_untouched bs s u evs hrun
    have hrun' := feedAll_within bs s { s with cfg := { s.cfg with addrBroadcast := a, addrDefault := d } } hread
    rw [hrun, FramerStep.within_ok] at hrun'
    rw [hi]
    refine (congrArg finish hrun').trans ?_
    simp only [finish, State.within, State.answer, hcfg, hpending]
  | resets hi =>
    rw [hi, exec_sfReset] at h ⊢
    cases h
    rfl
  | answers result hi =>
    rw [hi.exec_eq] at h ⊢
    cases h
    rw [← hi.codec _ _ hread.codec]

/-- A run in a state with the same registers is the same run, and ends in the same registers. -/
theorem feedAll_of_sameFramer (bs : Bytes) (s w t : State) (evs : List Event) (h : sameFramer s w)
    (hrun : feedAll bs s = .ok (t, evs)) : feedAll bs w = .ok (t.within w, evs) ∧ sameFramer t (t.within w) := by
  obtain ⟨hcfg, hst, hbuf, hn, hrem⟩ := h
  have hw : s.within w = w := by rw [State.within, ← hst, ← hbuf, ← hn, ← hrem]
  refine ⟨?_, ?_, rfl, rfl, rfl, rfl⟩
  · have := feedAll_within bs s w (hcfg ▸ .refl _)
    rwa [hw, hrun] at this
  · rw [State.within_cfg, hcfg, (feedAll_untouched bs s t evs hrun).1]

theorem sameFramer.trans {s t u : State} (h : sameFramer s t) (h' : sameFramer t u) : sameFramer s u := by
  obtain ⟨hcfg, hst, hbuf, hn, hrem⟩ := h
  obtain ⟨hcfg', hst', hbuf', hn', hrem'⟩ := h'
  exact ⟨hcfg'.trans hcfg, hst'.trans hst, hbuf'.trans hbuf, hn'.trans hn, hrem'.trans hrem⟩

/-- The step of a pending `SF.FEED` leaves the registers that the byte leaves. -/
theorem step_sfFeed (s v : State) (x : Byte) (rest : List Request) (evs : List Event)
    (hp : s.pending = encode (.sfFeed x) :: rest) (h : feed x s = .ok (v, evs)) :
    ∃ w, step s = .next w ∧ sameFramer v w ∧ w.pending = rest := by
  rw [← feedAll_singleton] at h
  obtain ⟨hrun, hsame⟩ := feedAll_of_sameFramer [x] s { s with pending := rest } v evs (sameFramer_refl s) h
  refine ⟨(v.within { s with pending := rest }).answer (.events evs), ?_, (sameFramer_answer _ _ _).mpr hsame, rfl⟩
  rw [step_of_pending s _ rest (.sfFeed x) hp rfl, exec_sfFeed, ← feedAll_singleton, hrun, finish]

/-- The request of one element of a transcript: a byte for `SF.FEED`, or a poll. -/
def transcriptRequest : Option Byte → Request
  | some x => encode (.sfFeed x)
  | none => encode .sfIdle

/-- A byte's step leaves what the first step of the run leaves, and a poll's step leaves the registers. -/
theorem run_transcript (ops : List (Option Byte)) (s t : State) (evs : List Event) (rest : List Request)
    (hp : s.pending = ops.map transcriptRequest ++ rest) (hrun : feedAll (ops.filterMap id) s = .ok (t, evs)) :
    ∃ u : State, Host.Core.run Sys2Proof.core ops.length s = .next u ∧ sameFramer t u ∧ u.pending = rest := by
  induction ops generalizing s t evs with
  | nil =>
    cases hrun
    exact ⟨s, rfl, sameFramer_refl s, hp⟩
  | cons o ops ih =>
    have hstep : ∃ v w more, step s = .next w ∧ sameFramer v w ∧ w.pending = ops.map transcriptRequest ++ rest ∧
        feedAll (ops.filterMap id) v = .ok (t, more) := by
      cases o with
      | none => exact ⟨s, _, evs, step_sfIdle s _ hp, sameFramer_refl s, rfl, hrun⟩
      | some x =>
        obtain ⟨v, ev, more, hfeed, hrest, -⟩ := (feedAll_cons x (ops.filterMap id) s t evs).mp hrun
        obtain ⟨w, hstep, hsame, hpending⟩ := step_sfFeed s v x _ ev hp hfeed
        exact ⟨v, w, more, hstep, hsame, hpending, hrest⟩
    obtain ⟨v, w, more, hstep, hsame, hpending, hrest⟩ := hstep
    obtain ⟨hrun', ht⟩ := feedAll_of_sameFramer _ v w t more hsame hrest
    obtain ⟨u, hu, htu, hupending⟩ := ih w _ more hpending hrun'
    exact ⟨u, (run_succ_of_step ops.length s w hstep).trans hu, ht.trans htu, hupending⟩

/-- Settles O29, by induction on the transcript (`run_transcript`). -/
theorem transcriptsRunTheFramer : Obligations.TranscriptsRunTheFramer := run_transcript

end Sys2Proof.Machine
end

section
/-! The checksum as a residue of the byte sum (R131), and the accepted frames as the encoded ones (R147): what `DECODE` accepts, what
it refuses after one byte changed (R148), and what it cannot see (R149). -/

namespace Sys2Proof.Machine

/-- The checksum over the naturals (R131 (a)). -/
theorem checksumOf_toNat_eq_sub (s : Bytes) : (checksumOf s).toNat = 255 - byteSum s % 256 := by
  have := checksumOf_toNat s
  omega

/-- The checksum is the byte that completes the sum to 255 (R131 (d)). -/
theorem eq_checksumOf_iff (s : Bytes) (x : Byte) : x = checksumOf s ↔ (byteSum s + x.toNat) % 256 = 255 := by
  rw [← BitVec.toNat_inj, checksumOf_toNat_eq_sub]
  have := x.isLt
  omega

theorem byteSum_perm (s t : Bytes) (h : s.Perm t) : byteSum s = byteSum t := by
  rw [byteSum_eq_sum_map_toNat, byteSum_eq_sum_map_toNat, (h.map _).sum_eq]

theorem checksumOf_perm (s t : Bytes) (h : s.Perm t) : checksumOf s = checksumOf t := by
  rw [checksumOf, checksumOf, byteSum_perm s t h]

/-- Settles O38: each form is arithmetic modulo 256 on the checksum's value. -/
theorem checksumEquivalentForms : Obligations.ChecksumEquivalentForms := by
  intro s t x
  refine ⟨checksumOf_toNat_eq_sub s, ?_, checksumOf_perm s t, eq_checksumOf_iff s x, ?_⟩
  · have hones : (0xFF : Byte) = BitVec.allOnes 8 := rfl
    rw [hones, BitVec.xor_allOnes, ← BitVec.toNat_inj, checksumOf_toNat_eq_sub, BitVec.toNat_not, BitVec.toNat_ofNat]
  · have hx := x.isLt
    rw [← BitVec.toNat_inj, BitVec.toNat_sub, checksumOf_toNat_eq_sub, checksumOf_toNat_eq_sub, byteSum_append,
      byteSum_cons, byteSum_nil]
    omega

/-- A frame's bytes: the seven of the head, the payload, checksum and terminator (R92). -/
theorem exists_frame_bytes (b : Bytes) (h : 9 ≤ b.length) :
    ∃ (b₀ b₁ b₂ b₃ b₄ b₅ b₆ : Byte) (p : Bytes) (k t : Byte), b = [b₀, b₁, b₂, b₃, b₄, b₅, b₆] ++ p ++ [k, t] := by
  match b with
  | b₀ :: b₁ :: b₂ :: b₃ :: b₄ :: b₅ :: b₆ :: rest =>
    have hrest : 2 ≤ rest.length := by simp only [List.length_cons] at h; omega
    have htail : (rest.drop (rest.length - 2)).length = 2 := by rw [List.length_drop]; omega
    obtain ⟨k, t, hkt⟩ := List.length_eq_two.mp htail
    refine ⟨b₀, b₁, b₂, b₃, b₄, b₅, b₆, rest.take (rest.length - 2), k, t, ?_⟩
    rw [← hkt, List.append_assoc, List.take_append_drop]
    rfl

/-- An accepted frame is the encoding of its Message: the checks fix every byte that is not the Message's (R147). -/
theorem encodeFrame_of_accepted (c : Cfg) (b : Bytes) (h : structuralError c b = none) :
    encodeFrame c (frameMessage b) = .ok b := by
  obtain ⟨hmin, hprefix, hformat, hlen, hover, hterm, hsum⟩ := (structuralError_eq_none_iff c b).mp h
  obtain ⟨b₀, b₁, b₂, b₃, b₄, b₅, b₆, p, k, t, rfl⟩ := exists_frame_bytes b (by omega)
  have hlength : ([b₀, b₁, b₂, b₃, b₄, b₅, b₆] ++ p ++ [k, t]).length = 7 + p.length + 2 := by simp; omega
  rw [hlength] at hlen hterm hsum
  have hannounced : u16be b₂ b₃ = 5 + p.length := hlen.trans (by omega)
  have hp : p.length ≤ 65530 := by have := u16be_lt b₂ b₃; omega
  have hhead : [b₀, b₁, b₂, b₃, b₄, b₅, b₆] = frameHead c ⟨b₅, b₆, b₄, p⟩ := by
    rw [frameHead, ← hprefix, ← hformat, ← hannounced, hi8_u16be, lo8_u16be]
    rfl
  rw [hhead] at hterm hsum ⊢
  rw [frameMessage_frame c ⟨b₅, b₆, b₄, p⟩ k t, encodeFrame_of_length_le c ⟨b₅, b₆, b₄, p⟩ hp]
  have htail (j : Nat) := byteAt_frame_tail c ⟨b₅, b₆, b₄, p⟩ p [k, t] j
  have hk : checksumOf (frameHead c ⟨b₅, b₆, b₄, p⟩ ++ p) = k := by
    rw [← take_frame_covered c ⟨b₅, b₆, b₄, p⟩ p [k, t]]
    exact hsum.trans (htail 0)
  have ht : c.termByte = t := hterm.symm.trans (htail 1)
  rw [hk, ht]

/-- What `ENCODE` answers fits the length field, and is the frame. -/
theorem encodeFrame_ok (c : Cfg) (m : Message) (f : Bytes) (h : encodeFrame c m = .ok f) :
    m.payload.length ≤ 65530 ∧
      f = frameHead c m ++ m.payload ++ [checksumOf (frameHead c m ++ m.payload), c.termByte] := by
  rcases Nat.lt_or_ge 65530 m.payload.length with hgt | hle
  · rw [encodeFrame_of_length_gt c m hgt] at h
    cases h
  · rw [encodeFrame_of_length_le c m hle] at h
    cases h
    exact ⟨hle, rfl⟩

/-- Settles O45: an encoded frame is accepted as its Message (R146), and an accepted frame is encoded from its Message. -/
theorem acceptedFramesAreEncodings : Obligations.AcceptedFramesAreEncodings := by
  intro c b m
  refine ⟨⟨fun h => ?_, fun h => ?_⟩, fun h => ?_⟩
  · obtain ⟨haccepted, rfl⟩ := (decodeFrame_false_eq_ok_iff c b m).mp h
    exact encodeFrame_of_accepted c b haccepted
  · obtain ⟨hlen, rfl⟩ := encodeFrame_ok c m b h
    exact (decodeFrame_false_eq_ok_iff c _ m).mpr ⟨structuralError_frame c m hlen, frameMessage_frame c m _ _⟩
  · obtain ⟨haccepted, -, rfl⟩ := (decodeFrame_true_eq_ok_iff c b m).mp h
    exact encodeFrame_of_accepted c b haccepted

/-- With or without checking, what `DECODE` accepts is an encoding. -/
theorem encodeFrame_of_decodeFrame_ok (c : Cfg) (b : Bytes) (chk : Bool) (m : Message)
    (h : decodeFrame c b chk = .ok m) : encodeFrame c m = .ok b := by
  obtain ⟨hplain, hchecked⟩ := acceptedFramesAreEncodings c b m
  cases chk with
  | false => exact hplain.mp h
  | true => exact hchecked h

theorem frame_length (c : Cfg) (m : Message) (p : Bytes) (k t : Byte) :
    (frameHead c m ++ p ++ [k, t]).length = 9 + p.length := by
  simp only [List.length_append, frameHead_length, List.length_cons, List.length_nil]
  omega

/-- Settles O42: what decodes is an encoding, and the length of an encoding is the payload's and nine bytes (R93). -/
theorem onlyFrameSizedInputsDecode : Obligations.OnlyFrameSizedInputsDecode := by
  intro c b chk m h
  obtain ⟨-, -, -, hlen, -⟩ := (structuralError_eq_none_iff c b).mp (structuralError_of_decodeFrame_ok c b chk m h)
  obtain ⟨hpayload, hb⟩ := encodeFrame_ok c m b (encodeFrame_of_decodeFrame_ok c b chk m h)
  have hlength : b.length = 9 + m.payload.length := by rw [hb, frame_length]
  exact ⟨by omega, by omega, by omega, by omega⟩

/-- Settles O47: the head announces the payload's length only, and the checksum adds its bytes in any order. -/
theorem payloadReorderingIsUndetected : Obligations.PayloadReorderingIsUndetected := by
  intro c m p f hperm hf
  obtain ⟨hlen, rfl⟩ := encodeFrame_ok c m f hf
  have hhead : frameHead c { m with payload := p } = frameHead c m := by simp only [frameHead, hperm.length_eq]
  have hsum : checksumOf (frameHead c m ++ p) = checksumOf (frameHead c m ++ m.payload) :=
    checksumOf_perm _ _ (hperm.symm.append_left _)
  have htake (t : Bytes) : (frameHead c m ++ m.payload ++ t).take 7 = frameHead c m := by
    rw [List.append_assoc]
    exact List.take_left' (frameHead_length c m)
  have hdrop (t : Bytes) : (frameHead c m ++ m.payload ++ t).drop (7 + p.length) = t :=
    List.drop_left' (by rw [List.length_append, frameHead_length, hperm.length_eq])
  refine (acceptedFramesAreEncodings c _ _).1.mpr ?_
  rw [encodeFrame_of_length_le c { m with payload := p } (hperm.length_eq ▸ hlen), hhead, htake, hdrop, hsum]

/-- Settles O51: checking adds `codeError`, which is defined from the class. -/
theorem classForetellsChecking : Obligations.ClassForetellsChecking := by
  intro c b m h
  rw [decodeFrame_true_of_false_ok c b m h, codeError]
  refine ⟨fun hclass => ?_, fun k hclass => by rw [hclass]; rfl, fun hclass => by rw [hclass]; rfl⟩
  rcases hclass with hclass | hclass
  all_goals
    rw [hclass]
    rfl

/-! One byte of a frame changed. -/

theorem byteAt_set_same (f : Bytes) (i : Nat) (v : Byte) (h : i < f.length) : byteAt (f.set i v) i = v := by
  simp [byteAt, List.getD, h]

theorem byteAt_set_other (f : Bytes) (i j : Nat) (v : Byte) (h : i ≠ j) : byteAt (f.set i v) j = byteAt f j := by
  simp [byteAt, List.getD, h]

theorem byteSum_set (s : Bytes) (i : Nat) (v : Byte) (h : i < s.length) :
    byteSum (s.set i v) + (byteAt s i).toNat = byteSum s + v.toNat := by
  induction s generalizing i with
  | nil => simp at h
  | cons b s ih =>
    cases i with
    | zero => simp only [List.set_cons_zero, byteSum_cons, byteAt_cons_zero]; omega
    | succ i =>
      have := ih i (Nat.lt_of_succ_lt_succ h)
      simp only [List.set_cons_succ, byteSum_cons, byteAt_cons_succ]
      omega

/-- Two different bytes are not congruent modulo 256, so the checksum sees any one byte changed. -/
theorem checksumOf_set_ne (s : Bytes) (i : Nat) (v : Byte) (h : i < s.length) (hv : v ≠ byteAt s i) :
    checksumOf (s.set i v) ≠ checksumOf s := by
  intro hsame
  have hsum := byteSum_set s i v h
  have hset := (eq_checksumOf_iff (s.set i v) _).mp hsame.symm
  have hs := (eq_checksumOf_iff s _).mp rfl
  have := v.isLt
  have := (byteAt s i).isLt
  exact hv (BitVec.eq_of_toNat_eq (by omega))

/-- The length field determines its two bytes (R150). -/
theorem u16be_inj (h l h' l' : Byte) (heq : u16be h l = u16be h' l') : h = h' ∧ l = l' :=
  ⟨by rw [← hi8_u16be h l, heq, hi8_u16be], by rw [← lo8_u16be h l, heq, lo8_u16be]⟩

theorem sliceOf_set (f : Bytes) (i j : Nat) (v : Byte) : sliceOf (f.set i v) 0 j = (sliceOf f 0 j).set i v := by
  simp only [sliceOf, List.drop_zero, List.take_set]

/-- Where a byte before the terminator is changed, checksum and stored checksum no longer agree: one of them changed. -/
theorem checksum_set_ne_stored (f : Bytes) (i : Nat) (v : Byte) (hi : i + 1 < f.length) (hv : v ≠ byteAt f i)
    (hsum : checksumOf (sliceOf f 0 (f.length - 2)) = byteAt f (f.length - 2)) :
    checksumOf (sliceOf (f.set i v) 0 (f.length - 2)) ≠ byteAt (f.set i v) (f.length - 2) := by
  have hslice : (sliceOf f 0 (f.length - 2)).length = f.length - 2 := by simp [sliceOf]
  rw [sliceOf_set]
  by_cases hstored : i = f.length - 2
  · rw [List.set_eq_of_length_le (by omega), ← hstored, byteAt_set_same f i v (by omega), hstored, hsum, ← hstored]
    exact hv.symm
  · rw [byteAt_set_other f i _ v hstored, ← hsum]
    refine checksumOf_set_ne _ i v (by omega) ?_
    rwa [byteAt_sliceOf f 0 _ i (by omega), Nat.zero_add]

/-- Any byte of an accepted frame changed is detected, by the check that its position belongs to (R148). -/
theorem structuralError_set (c : Cfg) (f : Bytes) (i : Nat) (v : Byte) (h : structuralError c f = none)
    (hi : i < f.length) (hv : v ≠ byteAt f i) :
    ∃ e, structuralError c (f.set i v) = some e ∧
      if i = 0 then ∃ b, e = .badPrefix b
      else if i = 1 then ∃ b, e = .badFormat b
      else if i < 4 then ∃ l t, e = .lengthMismatch l t
      else if i + 1 < f.length then ∃ x y, e = .checksumMismatch x y
      else ∃ b, e = .badTerminator b := by
  obtain ⟨hmin, hprefix, hformat, hlen, hover, hterm, hsum⟩ := (structuralError_eq_none_iff c f).mp h
  have same := byteAt_set_same f i v hi
  have other (j : Nat) (hj : i ≠ j) := byteAt_set_other f i j v hj
  split_ifs with h0 h1 h4 hlast
  all_goals simp only [structuralError, List.length_set, if_neg hmin.not_gt]
  · subst h0
    rw [same, if_pos (hprefix ▸ hv)]
    exact ⟨_, rfl, _, rfl⟩
  · subst h1
    rw [other 0 (by decide), if_neg (not_not.mpr hprefix), same, if_pos (hformat ▸ hv)]
    exact ⟨_, rfl, _, rfl⟩
  all_goals
    rw [other 0 h0, if_neg (not_not.mpr hprefix), other 1 h1, if_neg (not_not.mpr hformat)]
  · have hfield : u16be (byteAt (f.set i v) 2) (byteAt (f.set i v) 3) ≠ f.length - 4 := by
      rw [← hlen]
      intro heq
      obtain ⟨hhi, hlo⟩ := u16be_inj _ _ _ _ heq
      obtain rfl | rfl : i = 2 ∨ i = 3 := by omega
      · exact hv (same.symm.trans hhi)
      · exact hv (same.symm.trans hlo)
    rw [if_pos (.inl hfield)]
    exact ⟨_, rfl, _, _, rfl⟩
  all_goals
    rw [other 2 (by omega), other 3 (by omega), if_neg (not_or.mpr ⟨not_not.mpr hlen, hover.not_gt⟩)]
  · rw [other _ (by omega), if_neg (not_not.mpr hterm), if_pos (checksum_set_ne_stored f i v hlast hv hsum)]
    exact ⟨_, rfl, _, _, rfl⟩
  · obtain rfl : i = f.length - 1 := by omega
    rw [same, if_pos (hterm ▸ hv)]
    exact ⟨_, rfl, _, rfl⟩

theorem xor_bit_ne (x : Byte) (k : Nat) (hk : k < 8) : x ^^^ BitVec.ofNat 8 (2 ^ k) ≠ x := by
  intro h
  have hzero : BitVec.ofNat 8 (2 ^ k) = 0 := by simpa [← BitVec.xor_assoc] using congrArg (x ^^^ ·) h
  have hbit : 2 ^ k < 2 ^ 8 := Nat.pow_lt_pow_right (by decide) hk
  have hvalue : 2 ^ k % 2 ^ 8 = 0 := congrArg BitVec.toNat hzero
  rw [Nat.mod_eq_of_lt hbit] at hvalue
  exact absurd hvalue (Nat.two_pow_pos k).ne'

/-- Settles O46: a flipped bit changes its byte, and any byte changed is detected (`structuralError_set`). -/
theorem singleBitFlipsAreDetected : Obligations.SingleBitFlipsAreDetected := by
  intro c m f i k chk hf hi hk
  obtain ⟨haccepted, -⟩ := (decodeFrame_false_eq_ok_iff c f m).mp ((acceptedFramesAreEncodings c f m).1.mpr hf)
  obtain ⟨e, herror, hkind⟩ := structuralError_set c f i _ haccepted hi (xor_bit_ne (byteAt f i) k hk)
  exact ⟨e, decodeFrame_of_structuralError c _ chk e herror, hkind⟩

end Sys2Proof.Machine
end

section
/-! What `SF.FEED` leaves and reports, in any state and under the invariant (R41, R194). -/

namespace Sys2Proof.Machine

/-- Settles O24: of the ends of a framer step, the skip reports a skip, going on reports nothing, and the others resynchronise. -/
theorem candidatesEndInResetState : Obligations.CandidatesEndInResetState := by
  intro s t x evs e h hout he hnoskip
  obtain ⟨u, evs', hfeed, rfl⟩ := (finish_next _ _).mp h
  obtain rfl : evs' = evs := by simpa using hout
  cases (feed_cases x s u evs' hfeed).1 with
  | skip _ _ _ hevs => exact absurd (by simpa [hevs] using he) (hnoskip x)
  | keep _ _ _ _ _ hevs => simp [hevs] at he
  | badHeader _ _ ht _ => exact ht ▸ s.resync_atReset
  | complete _ _ ht _ => exact ht ▸ s.resync_atReset

/-- Settles O25: of the ends of a framer step, only going on keeps the cells, with one more. -/
theorem feedStoresOneByteOrDropsAll : Obligations.FeedStoresOneByteOrDropsAll := by
  intro s t x h
  obtain ⟨u, evs, hfeed, rfl⟩ := (finish_next _ _).mp h
  obtain ⟨hcfg, -, hpending⟩ := feed_untouched x s u evs hfeed
  refine ⟨hcfg, hpending, ?_⟩
  have hdropped (a : Nat) : Memory.read s.resync.buf a = none := rfl
  cases (feed_cases x s u evs hfeed).1 with
  | skip hst hx ht _ =>
    rw [if_pos ⟨hst, hx⟩, ht]
    exact sameFramer_refl s
  | keep hx st' rem' hst' ht _ =>
    rw [if_neg fun hskip => hskip.2 (hx hskip.1), if_neg (by rw [ht]; exact hst'), ht]
    exact ⟨rfl, Memory.read_write_same _ _ _, fun a ha => Memory.read_write_other _ _ _ _ ha⟩
  | badHeader hst _ ht _ =>
    rw [if_neg (by simp [hst]), ht]
    exact (if_pos rfl).mpr ⟨hdropped, rfl, rfl⟩
  | complete hst _ ht _ =>
    rw [if_neg (by simp [hst]), ht]
    exact (if_pos rfl).mpr ⟨hdropped, rfl, rfl⟩

/-- What `COMPLETE` reports but the warning is the candidate's fate (R186). -/
theorem eq_candidateEvent_of_mem (c : Cfg) (raw : Bytes) (e : Event) (h : e ∈ completeEvents c raw)
    (hwarning : e ≠ .missingTerminator) : e = candidateEvent c raw := by
  rcases List.mem_append.mp h with h | h
  · rw [terminatorWarning] at h
    split at h
    · exact absurd (List.mem_singleton.mp h) hwarning
    · cases h
  · exact List.mem_singleton.mp h

theorem candidateEvent_eq_discarded_iff (c : Cfg) (raw raw' : Bytes) (e : Err) :
    candidateEvent c raw = .discarded e raw' ↔ raw = raw' ∧ decodeFrame c raw c.sfCheck = .err e := by
  rw [candidateEvent]
  cases decodeFrame c raw c.sfCheck <;> simp [and_comm]

theorem candidateEvent_eq_frame_iff (c : Cfg) (raw raw' : Bytes) (m : Message) :
    candidateEvent c raw = .frame raw' m ↔ raw = raw' ∧ decodeFrame c raw c.sfCheck = .ok m := by
  rw [candidateEvent]
  cases decodeFrame c raw c.sfCheck <;> simp

/-- An error of `DECODE` is structural, or it is the response code's where that is checked (R136). -/
theorem decodeFrame_err_cases (c : Cfg) (b : Bytes) (chk : Bool) (e : Err) (h : decodeFrame c b chk = .err e) :
    structuralError c b = some e ∨ (chk = true ∧ codeError (byteAt b 6) = some e) := by
  cases hs : structuralError c b with
  | some e' =>
    rw [decodeFrame_of_structuralError c b chk e' hs] at h
    cases h
    exact .inl rfl
  | none =>
    rw [decodeFrame_of_accepted c b chk hs] at h
    cases chk with
    | false => cases h
    | true =>
      rw [if_pos rfl] at h
      cases hcode : codeError (byteAt b 6) with
      | none => rw [hcode] at h; cases h
      | some e' => rw [hcode] at h; cases h; exact .inr ⟨rfl, rfl⟩

theorem codeError_cases (code : Byte) (e : Err) (h : codeError code = some e) :
    e = .deviceError code ∨ e = .invalidResponseCode code := by
  rw [codeError_eq] at h
  split_ifs at h <;> cases h
  · exact .inl rfl
  · exact .inr rfl

/-- The structural errors of a frame as announced: the first two bytes are right, and the length field is right but may be below 5. -/
theorem structuralError_cases_of_announced (c : Cfg) (raw : Bytes) (e : Err) (hraw : Announced c raw)
    (h : structuralError c raw = some e) :
    (e = .frameTooShort raw.length ∧ raw.length < 7) ∨
      (e = .lengthMismatch (u16be (byteAt raw 2) (byteAt raw 3)) raw.length ∧ 7 ≤ raw.length ∧
        u16be (byteAt raw 2) (byteAt raw 3) < 5) ∨
      (∃ b, e = .badTerminator b) ∨ ∃ x y, e = .checksumMismatch x y := by
  obtain ⟨hprefix, hformat, hlength⟩ := hraw
  simp only [structuralError, hprefix, hformat, ne_eq, not_true_eq_false, if_false] at h
  split_ifs at h with hshort hlen hterm hsum <;> cases h
  · exact .inl ⟨rfl, hshort⟩
  · exact .inr (.inl ⟨rfl, not_lt.mp hshort, hlen.resolve_left (not_not.mpr (by rw [hlength, Nat.add_sub_cancel_left]))⟩)
  · exact .inr (.inr (.inr ⟨_, _, rfl⟩))
  · exact .inr (.inr (.inl ⟨_, rfl⟩))

/-- What R194 says of the error of a discarded candidate. -/
def BodyErrorOnly (c : Cfg) (raw : Bytes) (e : Err) : Prop :=
  (∀ b, e ≠ .badPrefix b) ∧ (∀ b, e ≠ .badFormat b) ∧ (∀ k, e ≠ .payloadTooLarge k) ∧
    (∀ k, e ≠ .truncatedRecord k) ∧ (∀ l k, e = .lengthMismatch l k → l = 3 ∨ l = 4) ∧
    (∀ k, e = .frameTooShort k → u16be (byteAt raw 2) (byteAt raw 3) ≤ 2) ∧
    (errFamily e ≠ .structural → c.sfCheck = true)

theorem bodyErrorOnly_of_announced (c : Cfg) (raw : Bytes) (e : Err) (hraw : Announced c raw)
    (h : decodeFrame c raw c.sfCheck = .err e) : BodyErrorOnly c raw e := by
  have hlength := hraw.length_eq
  rcases decodeFrame_err_cases c raw c.sfCheck e h with hs | ⟨hcheck, hcode⟩
  · rcases structuralError_cases_of_announced c raw e hraw hs with
      ⟨rfl, hshort⟩ | ⟨rfl, hmin, hlen⟩ | ⟨b, rfl⟩ | ⟨x, y, rfl⟩
    · have hbody : u16be (byteAt raw 2) (byteAt raw 3) ≤ 2 := by omega
      simpa [BodyErrorOnly, errFamily] using hbody
    · have hbody : u16be (byteAt raw 2) (byteAt raw 3) = 3 ∨ u16be (byteAt raw 2) (byteAt raw 3) = 4 := by omega
      simpa [BodyErrorOnly, errFamily] using hbody
    · simp [BodyErrorOnly, errFamily]
    · simp [BodyErrorOnly, errFamily]
  · rcases codeError_cases _ e hcode with rfl | rfl <;> simp [BodyErrorOnly, hcheck]

/-- Settles O26: a discard or a frame is the fate of a candidate that is as its header announced (R35). -/
theorem framerReportsOnlyBodyErrors : Obligations.FramerReportsOnlyBodyErrors := by
  intro s t x evs hinv h hout
  obtain ⟨u, evs', hfeed, rfl⟩ := (finish_next _ _).mp h
  obtain rfl : evs' = evs := by simpa using hout
  cases feed_held_cases x s hinv with
  | skip _ h' => rw [hfeed] at h'; cases h'; simp
  | keep _ _ _ h' => rw [hfeed] at h'; cases h'; simp
  | badHeader h' => rw [hfeed] at h'; cases h'; simp
  | complete hraw h' =>
    rw [hfeed] at h'
    cases h'
    refine ⟨fun e raw he => ?_, fun raw m hm => ?_⟩
    · obtain ⟨rfl, herr⟩ :=
        (candidateEvent_eq_discarded_iff _ _ _ _).mp (eq_candidateEvent_of_mem _ _ _ he (by simp)).symm
      exact bodyErrorOnly_of_announced _ _ e hraw herr
    · obtain ⟨rfl, hok⟩ := (candidateEvent_eq_frame_iff _ _ _ _).mp (eq_candidateEvent_of_mem _ _ _ hm (by simp)).symm
      exact encodeFrame_of_decodeFrame_ok _ _ _ m hok

end Sys2Proof.Machine
end

section
/-! Runs of whole frames from the reset state (R71, R191) and the wire patterns (R92, R94). -/

namespace Sys2Proof.Machine

/-- Settles O33: the row's instruction is the run of its bytes, which completes and accounts for them (O27). -/
theorem wireBytesRunTheFramer : Obligations.WireBytesRunTheFramer := by
  have hrun (s : State) (bs : Bytes) (hinv : s.Inv) : ∃ t evs, feedAll bs s = .ok (t, evs) ∧
      finish (feedAll bs s) = .next { t with out := .events evs } ∧ t.cfg = s.cfg ∧ t.pending = s.pending ∧
      s.heldBytes ++ bs = evs.flatMap eventBytes ++ t.heldBytes := by
    obtain ⟨t, evs, hfeed, -, hbytes⟩ := everyFedByteIsAccountedFor s bs hinv
    obtain ⟨hcfg, -, hpending⟩ := feedAll_untouched bs s t evs hfeed
    exact ⟨t, evs, hfeed, by rw [hfeed]; rfl, hcfg, hpending, hbytes⟩
  exact fun s p f a g i k e h l hinv => ⟨hrun s _ hinv, hrun s _ hinv⟩

/-- A run whose first byte is only stored. -/
theorem feedAll_cons_of_keep (x : Byte) (xs : Bytes) (s t : State) (h : feed x s = .ok (t, [])) :
    feedAll (x :: xs) s = feedAll xs t := by
  simp only [feedAll, h]
  cases feedAll xs t <;> rfl

/-- The framer after four header bytes from the reset state, before their check. -/
def State.withHeader (s : State) (b₀ b₁ b₂ b₃ : Byte) : State :=
  { s with st := .readingHeader, buf := [(0, b₀), (1, b₁), (2, b₂), (3, b₃)], n := 4 }

/-- Four bytes from the reset state, the first being `PREFIX`, are held and checked (R183, R184). -/
theorem feedAll_header_of_atReset (s : State) (f h l : Byte) (hs : s.atReset) :
    feedAll [s.cfg.prefixByte, f, h, l] s = checkHeader (s.withHeader s.cfg.prefixByte f h l) := by
  obtain ⟨hst, hbuf, hn, -⟩ := id hs
  have hfirst := feed_prefix _ s hs.inv hst rfl
  have hinv₁ := hs.inv.of_feed hfirst
  have hsecond := feed_header_of_lt f _ hinv₁ rfl (by simp [State.push, hn])
  have hinv₂ := hinv₁.of_feed hsecond
  have hthird := feed_header_of_lt h _ hinv₂ rfl (by simp [State.push, hn])
  have hinv₃ := hinv₂.of_feed hthird
  rw [feedAll_cons_of_keep _ _ _ _ hfirst, feedAll_cons_of_keep _ _ _ _ hsecond, feedAll_cons_of_keep _ _ _ _ hthird,
    feedAll_singleton, feed_header_fourth l _ hinv₃ rfl (by simp [State.push, hn])]
  exact congrArg checkHeader (by simp [State.push, State.withHeader, hbuf, hn])

/-- The header from the reset state, judged: a wrong format byte is reported at once, and otherwise the body announced is awaited
(R184). -/
theorem checkHeader_withHeader (s : State) (f h l : Byte) (hs : s.atReset) :
    (f ≠ s.cfg.formatByte →
      checkHeader (s.withHeader s.cfg.prefixByte f h l) = .ok (s, [.badHeader [s.cfg.prefixByte, f, h, l]])) ∧
    (f = s.cfg.formatByte → u16be h l ≠ 0 →
      checkHeader (s.withHeader s.cfg.prefixByte f h l) =
        .ok ({ s.withHeader s.cfg.prefixByte f h l with st := .readingBody, rem := BitVec.ofNat 16 (u16be h l) }, [])) := by
  have hcheck := checkHeader_held (s.withHeader s.cfg.prefixByte f h l) rfl rfl
  refine ⟨fun hf => ?_, fun hf hlen => ?_⟩
  · refine (hcheck.trans (if_pos (.inr hf))).trans ?_
    exact congrArg (fun t => Except.ok (t, _)) (s.resync_eq_self_of_atReset hs)
  · refine (hcheck.trans (if_neg (not_or.mpr ⟨not_not.mpr rfl, not_not.mpr hf⟩))).trans ?_
    exact if_neg hlen

/-- Settles O34: the row is the run of its four bytes, and the fourth brings the check of the header. -/
theorem wireHeaderFromReset : Obligations.WireHeaderFromReset := by
  intro s f h l hs
  have hexec : exec (.wireHeader s.cfg.prefixByte f h l) s = finish (checkHeader (s.withHeader s.cfg.prefixByte f h l)) :=
    congrArg finish (feedAll_header_of_atReset s f h l hs)
  obtain ⟨hbad, hgood⟩ := checkHeader_withHeader s f h l hs
  refine ⟨fun hf => by rw [hexec, hbad hf]; rfl, fun hf hlen => by rw [hexec, hgood hf hlen]; rfl⟩

/-- A run from the reset state is back in it once its bytes are dropped. -/
theorem State.atReset.resync_of_feedAll {s t : State} {bs : Bytes} {evs : List Event} (hs : s.atReset)
    (h : feedAll bs s = .ok (t, evs)) : t.resync = s := by
  obtain ⟨hcfg, hout, hpending⟩ := feedAll_untouched bs s t evs h
  have hresync : t.resync = s.resync := by simp only [State.resync, hcfg, hout, hpending]
  rw [hresync, s.resync_eq_self_of_atReset hs]

/-- A whole frame with a body, from the reset state: the header is held, the body counted down, and the last byte completes the
candidate, which leaves the reset state (R183 to R186). -/
theorem feedAll_announced_of_atReset (s : State) (raw : Bytes) (hs : s.atReset) (hraw : Announced s.cfg raw)
    (hlen : 4 < raw.length) : feedAll raw s = .ok (s, completeEvents s.cfg raw) := by
  obtain ⟨hprefix, hformat, hlength⟩ := hraw
  match raw with
  | p :: f :: h :: l :: body =>
    obtain rfl : p = s.cfg.prefixByte := hprefix
    obtain ⟨init, x, rfl⟩ : ∃ init x, body = init ++ [x] :=
      (List.eq_nil_or_concat' body).resolve_left (by rintro rfl; simp at hlen)
    have hbody : u16be h l = init.length + 1 := by
      simp only [List.length_cons, List.length_append, byteAt_cons_succ, byteAt_cons_zero, List.length_nil] at hlength
      omega
    have hheader := (feedAll_header_of_atReset s f h l hs).trans
      ((checkHeader_withHeader s f h l hs).2 hformat (by omega))
    have hrem := (BitVec.toNat_ofNat _ 16).trans (Nat.mod_eq_of_lt (u16be_lt h l))
    obtain ⟨t, hinit, htst, htrem, htheld⟩ := bodyBytesAreNeverInspected _ init (hs.inv.of_feedAll hheader) rfl
      (by simp only; omega)
    have hrun := (runsSplitAnywhere [_, f, h, l] init s t _).mpr ⟨_, _, _, hheader, hinit, rfl⟩
    have hone : t.rem = 1 := BitVec.eq_of_toNat_eq (show t.rem.toNat = 1 by simp only at htrem; omega)
    have hlast := (feed_body x t (hs.inv.of_feedAll hrun) htst).trans (if_pos hone)
    rw [← feedAll_singleton, hs.resync_of_feedAll hrun, (feedAll_untouched _ _ _ _ hrun).1, htheld] at hlast
    exact (runsSplitAnywhere ([_, f, h, l] ++ init) [x] s s _).mpr ⟨t, _, _, hrun, hlast, rfl⟩

/-- Settles O35: the nine bytes are a frame as announced. -/
theorem wireFrameFromReset : Obligations.WireFrameFromReset := by
  intro s a g i k e hs raw
  have hraw : Announced s.cfg raw := ⟨rfl, rfl, rfl⟩
  have hexec : exec (.wireFrameEmpty s.cfg.prefixByte s.cfg.formatByte a g i k e) s = finish (feedAll raw s) := rfl
  have hwarning : terminatorWarning s.cfg raw = if e ≠ s.cfg.termByte then [.missingTerminator] else [] := rfl
  rw [hexec, feedAll_announced_of_atReset s raw hs hraw (show 4 < 9 by decide), completeEvents, hwarning]
  rfl

theorem announced_of_accepted (c : Cfg) (f : Bytes) (h : structuralError c f = none) : Announced c f ∧ 4 < f.length := by
  obtain ⟨hmin, hprefix, hformat, hlen, -⟩ := (structuralError_eq_none_iff c f).mp h
  exact ⟨⟨hprefix, hformat, by omega⟩, by omega⟩

/-- An accepted frame is a candidate reported as itself, with no warning. -/
theorem completeEvents_of_decodeFrame_ok (c : Cfg) (f : Bytes) (m : Message) (h : decodeFrame c f c.sfCheck = .ok m) :
    completeEvents c f = [.frame f m] := by
  rw [completeEvents, terminatorWarning_of_decodeFrame_ok c f _ m h, (candidateEvent_eq_frame_iff c f f m).mpr ⟨rfl, h⟩,
    List.nil_append]

/-- One accepted frame from the reset state is one event, and the framer is where it started. -/
theorem feedAll_accepted_of_atReset (s : State) (f : Bytes) (m : Message) (hs : s.atReset)
    (h : decodeFrame s.cfg f s.cfg.sfCheck = .ok m) : feedAll f s = .ok (s, [.frame f m]) := by
  obtain ⟨hraw, hlen⟩ := announced_of_accepted s.cfg f (structuralError_of_decodeFrame_ok s.cfg f _ m h)
  rw [feedAll_announced_of_atReset s f hs hraw hlen, completeEvents_of_decodeFrame_ok s.cfg f m h]

/-- Noise without the byte `PREFIX` is skipped byte by byte (R183). -/
theorem feedAll_noise (s : State) (z : Bytes) (hst : s.st = .seekingPrefix) (hz : ∀ b ∈ z, b ≠ s.cfg.prefixByte) :
    feedAll z s = .ok (s, z.map Event.skip) := by
  induction z with
  | nil => rfl
  | cons x z ih =>
    obtain ⟨hx, hz⟩ := List.forall_mem_cons.mp hz
    exact (feedAll_cons x z s s _).mpr ⟨s, _, _, feed_skip x s hst hx, ih hz, rfl⟩

/-- Settles O31: the noise leaves the reset state as it is, and the frame starts from there. An accepted encoding decodes to its own
Message. -/
theorem resynchronisesAfterNoise : Obligations.ResynchronisesAfterNoise := by
  intro s z f m hs hz hf haccepted
  obtain ⟨m', hm'⟩ := haccepted
  have hsame : m' = m := by
    have h := (acceptedFramesAreEncodings s.cfg f m).1.mpr hf
    have h' := (acceptedFramesAreEncodings s.cfg f m').1.mpr (encodeFrame_of_decodeFrame_ok _ f _ m' hm')
    rw [h] at h'
    cases h'
    rfl
  have hframe := feedAll_accepted_of_atReset s f m hs (hsame ▸ hm')
  exact (runsSplitAnywhere z f s s _).mpr ⟨s, _, _, feedAll_noise s z hs.1 hz, hframe, rfl⟩

/-- Settles O32, by induction on the frames: each starts where the one before it ended. -/
theorem framesAreEmittedInArrivalOrder : Obligations.FramesAreEmittedInArrivalOrder := by
  intro s ms fs hs hall
  induction hall with
  | nil => rfl
  | cons hmf _ ih =>
    exact (runsSplitAnywhere _ _ s s _).mpr ⟨s, _, _, feedAll_accepted_of_atReset s _ _ hs hmf.2, ih, rfl⟩

end Sys2Proof.Machine
end

section
/-! Records as Points and back (R228): `RECENC` and `RECDEC` are inverse, record by record and over whole payloads. -/

namespace Sys2Proof.Machine

/-- The four wire bytes are the bytes of the temperature they give (R222, R228). -/
theorem tempByte_temp32 (w₀ w₁ w₂ w₃ : Byte) :
    tempByte (temp32 w₀ w₁ w₂ w₃) 0 = w₁ ∧ tempByte (temp32 w₀ w₁ w₂ w₃) 1 = w₀ ∧
      tempByte (temp32 w₀ w₁ w₂ w₃) 2 = w₃ ∧ tempByte (temp32 w₀ w₁ w₂ w₃) 3 = w₂ := by
  have := w₀.isLt
  have := w₁.isLt
  have := w₂.isLt
  have := w₃.isLt
  simp only [tempByte, temp32, sext32, ← BitVec.toNat_inj, BitVec.toNat_ofNat]
  omega

/-- A temperature is what its own four bytes give. -/
theorem temp32_tempByte (v : BitVec 32) : temp32 (tempByte v 1) (tempByte v 0) (tempByte v 3) (tempByte v 2) = v := by
  have := v.isLt
  simp only [tempByte, temp32, sext32, ← BitVec.toNat_inj, BitVec.toNat_ofNat]
  omega

theorem recDec_recEnc (q : Point) : recDec (recEnc q) = q := by
  obtain ⟨channel, powerFlag, stateFlag, tempRaw⟩ := q
  exact congrArg (Point.mk channel powerFlag stateFlag) (temp32_tempByte tempRaw)

theorem recEnc_recDec (b₀ b₁ b₂ w₀ w₁ w₂ w₃ : Byte) :
    recEnc (recDec [b₀, b₁, b₂, w₀, w₁, w₂, w₃]) = [b₀, b₁, b₂, w₀, w₁, w₂, w₃] := by
  obtain ⟨h0, h1, h2, h3⟩ := tempByte_temp32 w₀ w₁ w₂ w₃
  simp only [recEnc, recDec, byteAt_cons_succ, byteAt_cons_zero, h0, h1, h2, h3]

/-- A payload of whole records is the records of some Points. -/
theorem exists_points_of_length (k : Nat) (p : Bytes) (h : p.length = 7 * k) : ∃ qs : List Point, p = qs.flatMap recEnc := by
  induction k generalizing p with
  | zero => exact ⟨[], List.eq_nil_of_length_eq_zero h⟩
  | succ k ih =>
    match p with
    | b₀ :: b₁ :: b₂ :: w₀ :: w₁ :: w₂ :: w₃ :: rest =>
      obtain ⟨qs, hrest⟩ := ih rest (by simp only [List.length_cons] at h; omega)
      refine ⟨recDec [b₀, b₁, b₂, w₀, w₁, w₂, w₃] :: qs, ?_⟩
      rw [List.flatMap_cons, recEnc_recDec, ← hrest]
      rfl

theorem flatMap_recEnc_length (ps : List Point) : (ps.flatMap recEnc).length = 7 * ps.length := by
  induction ps with
  | nil => rfl
  | cons q ps ih =>
    have hrecord : (recEnc q).length = 7 := rfl
    rw [List.flatMap_cons, List.length_append, ih, hrecord, List.length_cons]
    omega

/-- A slice past the first record is a slice of the rest. -/
theorem sliceOf_append_record (r p : Bytes) (i : Nat) (hr : r.length = 7) :
    sliceOf (r ++ p) (i + 7) (i + 7 + recLen) = sliceOf p i (i + recLen) := by
  have hdrop : (r ++ p).drop (i + 7) = p.drop i := by rw [Nat.add_comm i 7, ← List.drop_drop, List.drop_left' hr]
  rw [sliceOf, sliceOf, List.drop_take, List.drop_take, hdrop, Nat.add_sub_cancel_left, Nat.add_sub_cancel_left]

/-- The Points of a list's records, read back (R228). -/
theorem decodePayload_flatMap_recEnc (ps : List Point) : decodePayload (ps.flatMap recEnc) = .ok ps := by
  have hlength := flatMap_recEnc_length ps
  rw [decodePayload_of_length_mod_eq _ (by rw [hlength, Nat.mul_mod_right]), hlength, Nat.mul_div_cancel_left _ (by decide)]
  congr 1
  clear hlength
  induction ps with
  | nil => rfl
  | cons q ps ih =>
    rw [List.length_cons, List.range_succ_eq_map, List.map_cons, List.map_map, List.flatMap_cons]
    refine congrArg₂ List.cons ((congrArg recDec (sliceOf_append_left (recEnc q) _)).trans (recDec_recEnc q)) ?_
    refine (List.map_congr_left fun k _ => congrArg recDec ?_).trans ih
    exact sliceOf_append_record (recEnc q) _ (7 * k) rfl

/-- Settles O54: any payload of whole records is that of its Points, and those are the ones read back. -/
theorem recordCodingIsABijection : Obligations.RecordCodingIsABijection := by
  refine fun p ps => ⟨fun h => ?_, fun h => h ▸ decodePayload_flatMap_recEnc ps⟩
  have hlength : p.length % 7 = 0 := by
    by_contra hne
    rw [decodePayload_of_length_mod_ne p hne] at h
    cases h
  obtain ⟨qs, rfl⟩ := exists_points_of_length (p.length / 7) p (by omega)
  rw [decodePayload_flatMap_recEnc] at h
  cases h
  rfl

end Sys2Proof.Machine
end

section
/-! Requests and instructions: decoding undoes encoding and encoding undoes decoding (R103, R120; layout: log 2). -/

namespace Sys2Proof

/-! The rows of several codes: of the masks only the row's own matches its codes (R120). -/

theorem decodeAck_invalid08 : ∀ code : Byte, wellFormed (.ackInvalid08 code) = true →
    decodeAck code = .ok (.ackInvalid08 code) := by decide

theorem decodeAck_invalid10 : ∀ code : Byte, wellFormed (.ackInvalid10 code) = true →
    decodeAck code = .ok (.ackInvalid10 code) := by decide

theorem decodeAck_invalid20 : ∀ code : Byte, wellFormed (.ackInvalid20 code) = true →
    decodeAck code = .ok (.ackInvalid20 code) := by decide

theorem decodeAck_invalid40 : ∀ code : Byte, wellFormed (.ackInvalid40 code) = true →
    decodeAck code = .ok (.ackInvalid40 code) := by decide

theorem decodeAck_invalid80 : ∀ code : Byte, wellFormed (.ackInvalid80 code) = true →
    decodeAck code = .ok (.ackInvalid80 code) := by decide

/-- A `TEMPSPLIT` operand is the word of its bytes (log 2). -/
theorem word32_byteOf32 (v : BitVec 32) : word32 (byteOf32 v 3) (byteOf32 v 2) (byteOf32 v 1) (byteOf32 v 0) = v := by
  have := v.isLt
  simp only [word32, byteOf32, ← BitVec.toNat_inj, BitVec.toNat_ofNat]
  omega

/-- Four bytes are the bytes of their word (log 2). -/
theorem byteOf32_word32 (a b c d : Byte) :
    byteOf32 (word32 a b c d) 3 = a ∧ byteOf32 (word32 a b c d) 2 = b ∧ byteOf32 (word32 a b c d) 1 = c ∧
      byteOf32 (word32 a b c d) 0 = d := by
  have := a.isLt
  have := b.isLt
  have := c.isLt
  have := d.isLt
  simp only [word32, byteOf32, ← BitVec.toNat_inj, BitVec.toNat_ofNat]
  omega

/-- Settles O1, by the instruction: its request's bytes are the operands, but for the word of `TEMPSPLIT` and the bit of `DECODE`; a row
of several codes is found by its code. -/
theorem requestsOfInstructionsDecodeBack : Obligations.RequestsOfInstructionsDecodeBack := by
  intro i hwf
  cases i with
  | tempsplit v => exact congrArg (fun w => Decoded.ok (.tempsplit w)) (word32_byteOf32 v)
  | decode b chk =>
    cases chk with
    | false => rfl
    | true => rfl
  | ackInvalid08 code => exact decodeAck_invalid08 code hwf
  | ackInvalid10 code => exact decodeAck_invalid10 code hwf
  | ackInvalid20 code => exact decodeAck_invalid20 code hwf
  | ackInvalid40 code => exact decodeAck_invalid40 code hwf
  | ackInvalid80 code => exact decodeAck_invalid80 code hwf
  | _ => rfl

/-- The instruction is well-formed and `r` is its request. -/
def IsRequestOf (r : Request) (i : Instr) : Prop := wellFormed i = true ∧ encode i = r

theorem isRequestOf_of_decodeOp (opsel : Byte) (operands : Bytes) (i : Instr) (h : decodeOp opsel operands = .ok i) :
    IsRequestOf ⟨.op, opsel :: operands⟩ i := by
  have hopsel (k : Nat) (hk : opsel.toNat = k) : opsel = BitVec.ofNat 8 k := by rw [← hk, BitVec.ofNat_toNat, BitVec.setWidth_eq]
  unfold decodeOp at h
  split at h
  case h_6 hk =>
    rw [hopsel 5 hk]
    split_ifs at h with h0 h1 <;> cases h
    · exact ⟨rfl, by rw [h0]; rfl⟩
    · exact ⟨rfl, by rw [h1]; rfl⟩
  case h_9 a b c d hk =>
    rw [hopsel 8 hk]
    cases h
    obtain ⟨h3, h2, h1, h0⟩ := byteOf32_word32 a b c d
    exact ⟨rfl, by rw [encode, h3, h2, h1, h0]; rfl⟩
  case h_10 => split_ifs at h
  all_goals
    next hk =>
      rw [hopsel _ hk]
      cases h
      exact ⟨rfl, rfl⟩

theorem isRequestOf_of_decodeAck (code : Byte) (i : Instr) (h : decodeAck code = .ok i) : IsRequestOf ⟨.ack, [code]⟩ i := by
  unfold decodeAck at h
  iterate 14
    obtain ⟨rfl, hi⟩ | ⟨-, h⟩ := ite_eq_iff.mp h
    · cases hi
      exact ⟨rfl, rfl⟩
  iterate 5
    obtain ⟨hmask, hi⟩ | ⟨-, h⟩ := ite_eq_iff.mp h
    · cases hi
      exact ⟨beq_iff_eq.mpr hmask, rfl⟩
  cases h

theorem isRequestOf_of_decodeFrameRow (bs : Bytes) (i : Instr) (h : decodeFrameRow bs = .ok i) :
    IsRequestOf ⟨.frame, bs⟩ i := by
  unfold decodeFrameRow at h
  split at h
  · split at h
    · next hlen =>
      obtain ⟨rfl, rfl⟩ := hlen
      cases h
      exact ⟨rfl, rfl⟩
    · cases h
  · cases h

theorem isRequestOf_of_decodeHeaderRow (bs : Bytes) (i : Instr) (h : decodeHeaderRow bs = .ok i) :
    IsRequestOf ⟨.header, bs⟩ i := by
  unfold decodeHeaderRow at h
  split at h <;> cases h
  exact ⟨rfl, rfl⟩

theorem isRequestOf_of_decodeRecordRow (bs : Bytes) (i : Instr) (h : decodeRecordRow bs = .ok i) :
    IsRequestOf ⟨.record, bs⟩ i := by
  unfold decodeRecordRow at h
  split at h <;> cases h
  exact ⟨rfl, rfl⟩

/-- Settles O2, by the request's format. -/
theorem decodedRequestsAreEncodings : Obligations.DecodedRequestsAreEncodings := by
  intro r i h
  obtain ⟨format, bytes⟩ := r
  cases format with
  | op =>
    cases bytes with
    | nil => cases h
    | cons opsel operands => exact isRequestOf_of_decodeOp opsel operands i h
  | ack =>
    match bytes with
    | [] => cases h
    | [code] => exact isRequestOf_of_decodeAck code i h
    | _ :: _ :: _ => cases h
  | frame => exact isRequestOf_of_decodeFrameRow bytes i h
  | header => exact isRequestOf_of_decodeHeaderRow bytes i h
  | record => exact isRequestOf_of_decodeRecordRow bytes i h

/-- Settles O4: each word is decoded by evaluation. -/
theorem writtenOutWordsDecode : Obligations.WrittenOutWordsDecode := by
  unfold Obligations.WrittenOutWordsDecode
  decide

theorem decodeOp_of_unassigned (b : Byte) (operands : Bytes) (h : 9 ≤ b.toNat) :
    decodeOp b operands = .reject (.unassignedOpsel b) := by
  unfold decodeOp
  split
  case h_10 => exact if_neg (by omega)
  all_goals omega

end Sys2Proof

namespace Sys2Proof.Machine

/-- Settles O5: the decoder rejects the selector before it looks at the operands. -/
theorem unassignedSelectorsAreRefused : Obligations.UnassignedSelectorsAreRefused := by
  intro s b operands rest hb hp
  have hdecode : decode ⟨.op, b :: operands⟩ = .reject (.unassignedOpsel b) := decodeOp_of_unassigned b operands hb
  simp only [step, State.fetch, hp, hdecode]

/-- Settles O6: `fetch` takes the first request, if there is one. -/
theorem stepExecutesDecodedRequest : Obligations.StepExecutesDecodedRequest := by
  refine fun s => ⟨step_of_pending s, fun hp => ?_⟩
  have hfetch : s.fetch = none := by rw [State.fetch, hp]
  rw [step, hfetch]
  rfl

/-- Settles O8, field by field. -/
theorem resetTakesDefaultConfiguration : Obligations.ResetTakesDefaultConfiguration :=
  ⟨rfl, rfl, rfl, rfl, rfl, rfl, rfl, rfl⟩

end Sys2Proof.Machine
end

section
/-! The ACK rows and their classes (R120, R170; rows as instructions: log 6), and the other rows and numbers of the tables. -/

namespace Sys2Proof.Machine

/-- The class an ACK row names in the table (R120). -/
def ackRowClass : Instr → Option AckClass
  | .ackOk => some .ok
  | .ackDeverr01 => some (.deviceError .unspecified)
  | .ackDeverr02 => some (.deviceError .unrecognizedInstruction)
  | .ackDeverr03 => some (.deviceError .malformedData)
  | .ackDeverr04 => some (.deviceError .notPermitted)
  | .ackDeverr05 => some (.deviceError .deviceFault)
  | .ackDeverr06 => some (.deviceError .noData)
  | .ackUnsolicited0A | .ackUnsolicited0B | .ackUnsolicited0C | .ackUnsolicited0D | .ackUnsolicited0E
  | .ackUnsolicited0F => some .unsolicited
  | .ackInvalid07 | .ackInvalid08 _ | .ackInvalid10 _ | .ackInvalid20 _ | .ackInvalid40 _ | .ackInvalid80 _ => some .invalid
  | _ => none

theorem exec_of_ackRowClass (i : Instr) (c : AckClass) (s : State) (h : ackRowClass i = some c) :
    exec i s = .next { s with out := .ackClass c } := by
  cases i <;> cases h <;> rfl

/-- The class of the row a code is decoded to, if it is decoded. -/
def decodedClass : Decoded → Option AckClass
  | .ok i => ackRowClass i
  | .reject _ => none

/-- Every code has a row, and the row's class is the one `ACKCLASS` answers, code by code (R120, R170). -/
theorem decodedClass_decodeAck : ∀ code : Byte, decodedClass (decodeAck code) = some (classify code) := by decide

/-- Settles O3: the row is the one the decoder finds, and a request is decoded to one instruction only. -/
theorem everyResponseCodeHasOneRow : Obligations.EveryResponseCodeHasOneRow := by
  intro code
  have hclass := decodedClass_decodeAck code
  cases hi : decodeAck code with
  | reject r => rw [hi] at hclass; cases hclass
  | ok i =>
    rw [hi] at hclass
    refine ⟨i, isRequestOf_of_decodeAck code i hi, fun j hwf hj => ?_, fun s => ?_⟩
    · have hdecode := requestsOfInstructionsDecodeBack j hwf
      rw [hj] at hdecode
      have hsame := hdecode.symm.trans hi
      cases hsame
      rfl
    · rw [exec_of_ackRowClass i _ s hclass, exec_ackclass]

/-- Settles O49: each row is `ackRowClass`'s. -/
theorem ackRowsNameTheirClasses : Obligations.AckRowsNameTheirClasses := fun s code =>
  have row (i : Instr) (c : AckClass) (h : ackRowClass i = some c) := exec_of_ackRowClass i c s h
  ⟨row _ _ rfl, row _ _ rfl, row _ _ rfl, row _ _ rfl, row _ _ rfl, row _ _ rfl, row _ _ rfl, row _ _ rfl, row _ _ rfl,
    row _ _ rfl, row _ _ rfl, row _ _ rfl, row _ _ rfl, row _ _ rfl, row _ _ rfl, row _ _ rfl, row _ _ rfl, row _ _ rfl,
    row (.ackInvalid80 code) _ rfl⟩

theorem classify_of_sixteen_le (code : Byte) (h : 16 ≤ code.toNat) : classify code = .invalid := by
  rcases classify_cases code with ⟨rfl, -⟩ | ⟨-, hhi, -⟩ | ⟨-, hhi, -⟩ | ⟨-, -, hclass⟩
  · exact absurd h (by decide)
  · omega
  · omega
  · exact hclass

/-- Counting the codes of some classes: the first sixteen one by one, and the 240 above are all invalid (R170). -/
theorem length_filter_codes (q : AckClass → Bool) :
    (((List.range 256).map (BitVec.ofNat 8)).filter fun c => q (classify c)).length =
      (((List.range 16).map (BitVec.ofNat 8)).filter fun c => q (classify c)).length + if q .invalid then 240 else 0 := by
  have hhigh : ∀ k ∈ List.range 240, classify (BitVec.ofNat 8 (16 + k)) = .invalid := by
    intro k hk
    have hlt := List.mem_range.mp hk
    refine classify_of_sixteen_le _ ?_
    rw [BitVec.toNat_ofNat]
    omega
  have hsplit : List.range 256 = List.range 16 ++ (List.range 240).map (16 + ·) :=
    show List.range (16 + 240) = _ from List.range_add
  simp only [hsplit, List.map_append, List.map_map, ← List.countP_eq_length_filter, List.countP_append, List.countP_map]
  rw [Nat.add_left_cancel_iff]
  split
  · next hq => exact (List.countP_eq_length.mpr fun k hk => by simp [hhigh k hk, hq]).trans List.length_range
  · next hq => exact List.countP_eq_zero.mpr fun k hk => by simp [hhigh k hk, hq]

/-- Settles O50: the counts by evaluation, the device errors by the four ranges of R170's table. -/
theorem responseCodeClassCounts : Obligations.ResponseCodeClassCounts := by
  refine ⟨?_, ?_, ?_, fun c => ?_⟩
  · exact length_filter_codes (· == .ok)
  · exact length_filter_codes (· == .unsolicited)
  · exact length_filter_codes (· == .invalid)
  rcases classify_cases c with ⟨rfl, h⟩ | ⟨hlo, hhi, kind, h⟩ | ⟨hlo, hhi, h⟩ | ⟨hlo, hrange, h⟩
  · exact iff_of_false (by rw [h]; simp) (by decide)
  · exact iff_of_true ⟨kind, h⟩ ⟨hlo, hhi⟩
  · exact iff_of_false (by simp [h]) (by omega)
  · exact iff_of_false (by simp [h]) (by omega)

/-- Settles O36: the row's Point is `RECDEC` of its seven bytes, of which they are the record (O54). -/
theorem wireRecordIsItsPoint : Obligations.WireRecordIsItsPoint := by
  refine fun s c p g w₀ w₁ w₂ w₃ => ⟨rfl, ?_⟩
  have hrecord : [c, p, g, w₀, w₁, w₂, w₃] = [recDec [c, p, g, w₀, w₁, w₂, w₃]].flatMap recEnc := by
    rw [List.flatMap_singleton, recEnc_recDec]
  rw [exec_mdecode, (recordCodingIsABijection _ _).mpr hrecord]
  rfl

/-- Settles O57, code by code. -/
theorem resultPortCodes : Obligations.ResultPortCodes :=
  ⟨fun _ _ _ _ _ _ _ =>
    ⟨rfl, rfl, rfl, rfl, rfl, rfl, rfl, rfl, rfl, rfl, rfl, rfl, rfl, rfl, rfl, rfl, rfl, rfl⟩, rfl, rfl, rfl⟩

end Sys2Proof.Machine
end
